-- ==== Sys2Proof/Word.lean ====
section
/-! DEFINITION. The two widths every other file speaks of (00_scope.md rules R7 and R9): the byte of the program image and the 16-bit
word. A word stands for both readings of rule R9, `u16` and `i16`: `as_i16` and `as_u16` keep every bit, so they are the
identity here, and a signed comparison says so where it is made (Machine/Flags.lean). -/

namespace Sys2Proof

/-- `u8`: one byte of the program image, a slot index, an opcode byte. -/
abbrev Byte := BitVec 8

/-- `u16` or `i16` (rule R9): ip, an immediate, a resolved address, a cell, a stack entry. -/
abbrev Word := BitVec 16

end Sys2Proof
end

