-- ==== Sys2Proof/Config.lean ====
section
/-! DEFINITION. What an implementation fixes: the parameters of 00_scope.md rule R7 and the instruction table of rule R12, as one
plain record, what a host capability does among it, and the free values of the model. -/

namespace Sys2Proof

/-- The five signatures of 30_encoding.md rule R82. -/
inductive Signature where
  | none | word | b1 | b2 | b3
  deriving DecidableEq, Repr

/-- The eleven reference instructions of 00_scope.md rule R2. -/
inductive RefInstr where
  | exit | goto | gotoEquals | gotoNotEquals | gotoGreater | gotoLess
  | compare | push | pop | call | ret
  deriving DecidableEq, Repr

/-- One thing a host capability may do (46_capability.md rules R192 and R193), with words `W` and truth values `B`: a
call of a checked accessor, or the write of one of the registers it may write. There is none for what rule R194
forbids. -/
inductive CapCall (W B : Type) where
  | readCell (a : W)
  | writeCell (a v : W)
  | pushValue (v : W)
  | popValue
  | pushCall (v : W)
  | popCall
  | setIp (v : W)
  | setImm (v : W)
  | setAddr (i : Fin 3) (v : W)
  | setEq (b : B)
  | setNe (b : B)
  | setGt (b : B)
  | setLt (b : B)
  | setRunning (b : B)
  | setExit (v : W)
  deriving DecidableEq, Repr

/-- An action with its values known. -/
abbrev CapAction := CapCall Word Bool

/-- The registers a host capability may read (rule R192). -/
inductive CapReg where
  | imm | addr0 | addr1 | addr2 | curIdx | curInl | ip | eq | ne | gt | lt | running | exit
  deriving DecidableEq, Repr

/-- The arithmetic a given capability is written in (42_compare.md rule R142 leaves it to the host; log 29). -/
inductive CapOp where
  | add | sub | mul | divide | remainder | and | or | xor
  | shiftLeft | shiftRight | equal | less | lessUnsigned
  deriving DecidableEq, Repr

/-- A value a given capability computes: a constant, a register, what an earlier accessor or input of this call
answered (0 is the newest), or an operation. -/
inductive CapExpr where
  | word (v : Word)
  | reg (r : CapReg)
  | result (n : Nat)
  | op (o : CapOp) (x y : CapExpr)
  deriving DecidableEq, Repr

/-- What a host capability does: the relation of 46_capability.md rule R197, as plain data (log 29). `unknown` admits
every outcome of rule R193 from there on; `choose` relates the state to the outcomes of both; `input` takes a word
from outside the block (rule R196); `hang` never returns (row U10 of 93_implementation_defined.md). -/
inductive CapBody where
  | finish
  | hang
  | unknown
  | call (c : CapCall CapExpr CapExpr) (next : CapBody)
  | branch (c : CapExpr) (yes no : CapBody)
  | choose (x y : CapBody)
  | input (next : CapBody)
  deriving DecidableEq, Repr

/-- `CAPKIND[k]` of rule R7. A reference instruction keeps the signature of rule R88 at any row (30_encoding.md
rule R89), so only a host row carries a signature of its own (log 22), and with it what its capability does. -/
inductive CapKind where
  | reference (r : RefInstr)
  | host (sig : Signature) (body : CapBody)
  deriving DecidableEq, Repr

/-- A descriptor of the instruction table (rule R12). The name has no effect on the block (rule R7). -/
structure Descriptor where
  name : String
  kind : CapKind
  deriving DecidableEq, Repr

/-- `INLINE_EXTRA` (rule R7, 92_eei_decisions.md D7): 1 or 2, nothing else. -/
inductive InlineExtra where
  | one | two
  deriving DecidableEq, Repr

/-- `CALL_PUSH` (rule R7, 92_eei_decisions.md D8). -/
inductive CallPush where
  | returnAddr | target
  deriving DecidableEq, Repr

/-- The parameters of rule R7. They stand in State as one field that no instruction changes (log 1), so that a
statement about every state is a statement about every value of every parameter. The empty table says that no
table is registered yet (70_reset_and_hazards.md rule R241, log 3). -/
structure Config where
  progCap : Nat
  table : List Descriptor
  vstackCap : Nat
  cstackCap : Nat
  inlineExtra : InlineExtra
  callPush : CallPush
  traceEn : Bool
  deriving DecidableEq, Repr

/-- What a host capability may read (46_capability.md rule R192): the operand set, the registers, the cells of the
loaded program, and the live entries of the two stacks, the top one first, as pops would give them. -/
structure CapView where
  imm : Word
  addr0 : Word
  addr1 : Word
  addr2 : Word
  curIdx : BitVec 7
  curInl : Bool
  ip : Word
  eq : Bool
  ne : Bool
  gt : Bool
  lt : Bool
  running : Bool
  exit : Word
  image : List Byte
  values : List Word
  calls : List Word
  deriving DecidableEq, Repr

/-- FREE VALUE (log 15, DESIGN CHOICE, safe): what an unknown capability at row `k` does when it sees `view`, on the draw
`draw`, as the list of its actions in order. It has no body, so a statement about it holds for every behaviour
within the frame of rule R193, as rule R197 asks. -/
opaque Config.hostCapability (k : BitVec 7) (view : CapView) (draw : Nat) : List CapAction

/-- FREE VALUE (log 29, DESIGN CHOICE, safe): which outcome of a `choose` is taken, on the draw `draw`. -/
opaque Config.freeChoice (draw : Nat) : Bool

/-- FREE VALUE (log 29, DESIGN CHOICE, safe): the word an `input` brings into a capability, on the draw `draw`. -/
opaque Config.freeInput (draw : Nat) : Word

/-- FREE VALUE (log 14, DESIGN CHOICE, safe): the byte at `a` of a LOAD whose byte sequence ends before the length it
declares, on the draw `draw`. -/
opaque Config.freeLoadByte (draw a : Nat) : Byte

end Sys2Proof
end

