-- ==== Sys2Proof/Syntax.lean ====
section
/-! DEFINITION. The instructions: one constructor per row of spec/opcode_table.json. Every one carries the table row it stands at
(`idx`, since a table may hold any descriptor at any row, 30_encoding.md rule R89) and the inline flag (legal on
every signature, rule R91), then the operand bytes its signature gives it. -/

namespace Sys2Proof

/-- The operand bytes of an instruction, by signature (30_encoding.md rule R85). The slot byte that the inline flag
makes the resolver ignore is still there (rule R87). -/
inductive Operands where
  | none
  | word (imm : Word)
  | b1 (s0 : Byte)
  | b2 (s0 s1 : Byte)
  | b3 (s0 s1 s2 : Byte)
  deriving DecidableEq, Repr

/-- The instructions of the block. -/
inductive Instr where
  | exit (idx : BitVec 7) (inl : Bool) (imm : Word)
  | goto (idx : BitVec 7) (inl : Bool) (imm : Word)
  | gotoEquals (idx : BitVec 7) (inl : Bool) (imm : Word)
  | gotoNotEquals (idx : BitVec 7) (inl : Bool) (imm : Word)
  | gotoGreater (idx : BitVec 7) (inl : Bool) (imm : Word)
  | gotoLess (idx : BitVec 7) (inl : Bool) (imm : Word)
  | compare (idx : BitVec 7) (inl : Bool) (s0 s1 : Byte)
  | push (idx : BitVec 7) (inl : Bool) (s0 : Byte)
  | pop (idx : BitVec 7) (inl : Bool) (s0 : Byte)
  | call (idx : BitVec 7) (inl : Bool) (imm : Word)
  | ret (idx : BitVec 7) (inl : Bool)
  | ext (idx : BitVec 7) (inl : Bool) (ops : Operands)
  | illegal (idx : BitVec 7) (inl : Bool)
  deriving DecidableEq, Repr

/-- The table row of an instruction, bits 6:0 of its opcode byte. -/
def Instr.index : Instr → BitVec 7
  | .exit idx _ _ | .goto idx _ _ | .gotoEquals idx _ _ | .gotoNotEquals idx _ _
  | .gotoGreater idx _ _ | .gotoLess idx _ _ | .compare idx _ _ _ | .push idx _ _
  | .pop idx _ _ | .call idx _ _ | .ret idx _ | .ext idx _ _ | .illegal idx _ => idx

/-- The inline flag of an instruction, bit 7 of its opcode byte. -/
def Instr.inline : Instr → Bool
  | .exit _ inl _ | .goto _ inl _ | .gotoEquals _ inl _ | .gotoNotEquals _ inl _
  | .gotoGreater _ inl _ | .gotoLess _ inl _ | .compare _ inl _ _ | .push _ inl _
  | .pop _ inl _ | .call _ inl _ | .ret _ inl | .ext _ inl _ | .illegal _ inl => inl

/-- The operand bytes of an instruction. An illegal opcode byte has none: the cycle raises before it reads any
(40_dispatch.md rule R103). -/
def Instr.operands : Instr → Operands
  | .exit _ _ v | .goto _ _ v | .gotoEquals _ _ v | .gotoNotEquals _ _ v
  | .gotoGreater _ _ v | .gotoLess _ _ v | .call _ _ v => .word v
  | .compare _ _ s0 s1 => .b2 s0 s1
  | .push _ _ s0 | .pop _ _ s0 => .b1 s0
  | .ret _ _ => .none
  | .ext _ _ ops => ops
  | .illegal _ _ => .none

/-- The signature that operand bytes belong to. -/
def Operands.signature : Operands → Signature
  | .none => .none
  | .word _ => .word
  | .b1 _ => .b1
  | .b2 _ _ => .b2
  | .b3 _ _ _ => .b3

end Sys2Proof
end

