-- ==== Sys2Proof/WellFormed.lean ====
section
/-! DEFINITION. When a configuration is legal (00_scope.md rule R7) and when an instruction is one of a given table (30_encoding.md
rules R88 to R90). -/

namespace Sys2Proof

/-- The constraints of rule R7. A table of no rows is the one not registered yet (log 3). `INLINE_EXTRA`, `CALL_PUSH` and
the signatures are legal by their types. -/
def Config.wellFormed (c : Config) : Bool :=
  decide (1 ≤ c.progCap) && decide (c.progCap ≤ 32768) && decide (c.table.length ≤ 128) &&
    decide (1 ≤ c.vstackCap) && decide (1 ≤ c.cstackCap)

/-- Row `idx` of the table holds a descriptor of the kind `k`. -/
def rowIs (table : List Descriptor) (idx : BitVec 7) (k : CapKind) : Bool :=
  match table[idx.toNat]? with
  | some d => decide (d.kind = k)
  | none => false

/-- Row `idx` of the table holds a host capability with the signature `sig`, whatever it does. -/
def rowIsHost (table : List Descriptor) (idx : BitVec 7) (sig : Signature) : Bool :=
  match table[idx.toNat]? with
  | some ⟨_, .host g _⟩ => decide (g = sig)
  | _ => false

/-- The instruction is one that `table` can encode: its row holds its descriptor, with its signature; an illegal one
stands at no row (rule R90). -/
def Instr.wellFormed (table : List Descriptor) : Instr → Bool
  | .exit idx _ _ => rowIs table idx (.reference .exit)
  | .goto idx _ _ => rowIs table idx (.reference .goto)
  | .gotoEquals idx _ _ => rowIs table idx (.reference .gotoEquals)
  | .gotoNotEquals idx _ _ => rowIs table idx (.reference .gotoNotEquals)
  | .gotoGreater idx _ _ => rowIs table idx (.reference .gotoGreater)
  | .gotoLess idx _ _ => rowIs table idx (.reference .gotoLess)
  | .compare idx _ _ _ => rowIs table idx (.reference .compare)
  | .push idx _ _ => rowIs table idx (.reference .push)
  | .pop idx _ _ => rowIs table idx (.reference .pop)
  | .call idx _ _ => rowIs table idx (.reference .call)
  | .ret idx _ => rowIs table idx (.reference .ret)
  | .ext idx _ ops => rowIsHost table idx ops.signature
  | .illegal idx _ => decide (table.length ≤ idx.toNat)

end Sys2Proof
end

