-- ==== Sys2Proof/Decode.lean ====
section
/-! DEFINITION. The bytecode decoder (30_encoding.md) and the encoder written from the same tables: opcode byte, operand bytes,
signatures, lengths, the reference table, and the host's view of the decoder on one word of the opcode table. -/

namespace Sys2Proof

/-- `hi ## lo` (00_scope.md rule R9): the little-endian pair of bytes, the low byte at the lower offset
(20_memory.md rule R64). -/
def wordOfBytes (hi lo : Byte) : Word := hi ++ lo

/-- `v[7:0]`. -/
def lowByte (v : Word) : Byte := v.extractLsb' 0 8

/-- `v[15:8]`. -/
def highByte (v : Word) : Byte := v.extractLsb' 8 8

/-- Bit 7 of the opcode byte, the inline-addressing flag (rule R81). -/
def opcodeInline (o : Byte) : Bool := o.getLsbD 7

/-- Bits 6:0 of the opcode byte, the opcode index (rule R81). -/
def opcodeIndex (o : Byte) : BitVec 7 := o.extractLsb' 0 7

/-- The opcode byte of a row and an inline flag (rule R81). -/
def opcodeByte (inl : Bool) (idx : BitVec 7) : Byte := BitVec.ofBool inl ++ idx

/-- `nb(sig)`, the operand byte count (rule R83). -/
def Signature.operandBytes : Signature → Nat
  | .none => 0
  | .word => 2
  | .b1 => 1
  | .b2 => 2
  | .b3 => 3

/-- `INLINE_EXTRA` as a number of bytes (00_scope.md rule R7). -/
def InlineExtra.bytes : InlineExtra → Nat
  | .one => 1
  | .two => 2

/-- `L(sig, inl)`, the length the ip advance counts (rule R84). -/
def instrLength (extra : InlineExtra) (sig : Signature) (inl : Bool) : Nat :=
  1 + sig.operandBytes + (if inl then extra.bytes else 0)

/-- The signature a reference instruction keeps at any row (rules R88 and R89). -/
def RefInstr.signature : RefInstr → Signature
  | .exit | .goto | .gotoEquals | .gotoNotEquals | .gotoGreater | .gotoLess | .call => .word
  | .compare => .b2
  | .push | .pop => .b1
  | .ret => .none

/-- `SIG[k]` of a descriptor. -/
def CapKind.signature : CapKind → Signature
  | .reference r => r.signature
  | .host sig _ => sig

/-- The reference configuration of the instruction table, `TABLE_LEN = 11` (rule R88). -/
def referenceTable : List Descriptor :=
  [⟨"EXIT", .reference .exit⟩, ⟨"GOTO", .reference .goto⟩,
   ⟨"GOTO_EQUALS", .reference .gotoEquals⟩, ⟨"GOTO_NOT_EQUALS", .reference .gotoNotEquals⟩,
   ⟨"GOTO_GREATER", .reference .gotoGreater⟩, ⟨"GOTO_LESS", .reference .gotoLess⟩,
   ⟨"COMPARE", .reference .compare⟩, ⟨"PUSH", .reference .push⟩, ⟨"POP", .reference .pop⟩,
   ⟨"CALL", .reference .call⟩, ⟨"RETURN", .reference .ret⟩]

/-- Why a decoding stops: a byte the instruction needs is not there (20_memory.md rule R65). No byte string is
rejected for its values: an opcode byte outside the table is the instruction `illegal` (rule R90), and operand bytes
are never illegal (rule R91). -/
inductive DecodeError where
  | truncated
  deriving DecidableEq, Repr

/-- One operand byte for `mk`. -/
def takeSlot (mk : Byte → Instr) : List Byte → Except DecodeError (Instr × List Byte)
  | s0 :: rest => .ok (mk s0, rest)
  | [] => .error .truncated

/-- The word immediate for `mk`, low byte first (rule R86). -/
def takeWord (mk : Word → Instr) : List Byte → Except DecodeError (Instr × List Byte)
  | lo :: hi :: rest => .ok (mk (wordOfBytes hi lo), rest)
  | _ => .error .truncated

/-- Two slot bytes for `mk` (rule R87). -/
def takeTwoSlots (mk : Byte → Byte → Instr) : List Byte → Except DecodeError (Instr × List Byte)
  | s0 :: s1 :: rest => .ok (mk s0 s1, rest)
  | _ => .error .truncated

/-- Three slot bytes for `mk` (rule R87). -/
def takeThreeSlots (mk : Byte → Byte → Byte → Instr) :
    List Byte → Except DecodeError (Instr × List Byte)
  | s0 :: s1 :: s2 :: rest => .ok (mk s0 s1 s2, rest)
  | _ => .error .truncated

/-- The operand bytes of a reference instruction, by its signature (rule R88). -/
def decodeReference (r : RefInstr) (idx : BitVec 7) (inl : Bool) (bs : List Byte) :
    Except DecodeError (Instr × List Byte) :=
  match r with
  | .exit => takeWord (.exit idx inl) bs
  | .goto => takeWord (.goto idx inl) bs
  | .gotoEquals => takeWord (.gotoEquals idx inl) bs
  | .gotoNotEquals => takeWord (.gotoNotEquals idx inl) bs
  | .gotoGreater => takeWord (.gotoGreater idx inl) bs
  | .gotoLess => takeWord (.gotoLess idx inl) bs
  | .compare => takeTwoSlots (.compare idx inl) bs
  | .push => takeSlot (.push idx inl) bs
  | .pop => takeSlot (.pop idx inl) bs
  | .call => takeWord (.call idx inl) bs
  | .ret => .ok (.ret idx inl, bs)

/-- The operand bytes of a host row, by the signature the host gave it (rules R85 and R89). -/
def decodeHost (sig : Signature) (idx : BitVec 7) (inl : Bool) (bs : List Byte) :
    Except DecodeError (Instr × List Byte) :=
  match sig with
  | .none => .ok (.ext idx inl .none, bs)
  | .word => takeWord (fun v => .ext idx inl (.word v)) bs
  | .b1 => takeSlot (fun s0 => .ext idx inl (.b1 s0)) bs
  | .b2 => takeTwoSlots (fun s0 s1 => .ext idx inl (.b2 s0 s1)) bs
  | .b3 => takeThreeSlots (fun s0 s1 s2 => .ext idx inl (.b3 s0 s1 s2)) bs

/-- The decoder: the opcode byte selects a row or is illegal (rules R81 and R90), the row's signature says how many
operand bytes follow (rule R92). It answers the instruction and the bytes after those it fetched. The bytes the inline
flag skips are not fetched (40_dispatch.md rule R103), so they stand in the rest. -/
def decode (table : List Descriptor) : List Byte → Except DecodeError (Instr × List Byte)
  | [] => .error .truncated
  | o :: bs =>
    match table[(opcodeIndex o).toNat]? with
    | none => .ok (.illegal (opcodeIndex o) (opcodeInline o), bs)
    | some d =>
      match d.kind with
      | .reference r => decodeReference r (opcodeIndex o) (opcodeInline o) bs
      | .host sig _ => decodeHost sig (opcodeIndex o) (opcodeInline o) bs

/-- The operand bytes in the order of rule R85. -/
def Operands.bytes : Operands → List Byte
  | .none => []
  | .word v => [lowByte v, highByte v]
  | .b1 s0 => [s0]
  | .b2 s0 s1 => [s0, s1]
  | .b3 s0 s1 s2 => [s0, s1, s2]

/-- The encoder: the opcode byte and the operand bytes (rule R80, parts 1 and 2). Part 3, the bytes the inline flag
skips, is not the instruction's own (log 20). -/
def Instr.encode (i : Instr) : List Byte :=
  opcodeByte i.inline i.index :: i.operands.bytes

/-- Byte `k` of an instruction whose bits the opcode table numbers from bit 0 of its first byte. -/
def tableByte (nbits w k : Nat) : Byte := BitVec.ofNat 8 ((w % 2 ^ nbits) >>> (8 * k))

/-- The first `n` bytes of such an instruction, zeros above its `nbits` bits. -/
def tableBytes (nbits w n : Nat) : List Byte := (List.range n).map (tableByte nbits w)

/-- The host's question: the instruction the decoder reads, by the reference table (log 21), from the bits `w`. Four bytes
are the most the decoder fetches. -/
def decodeTableWord (nbits w : Nat) : Option Instr :=
  match decode referenceTable (tableBytes nbits w 4) with
  | .ok (i, _) => some i
  | .error _ => none

end Sys2Proof
end

