-- ==== Sys2Proof/Machine/State.lean ====
section
/-! DEFINITION. The state of the block (10_state.md rule R20), the events at its ports (rules R45 to R47), the reasons a step of the
model can stop, and the machine at power-on (70_reset_and_hazards.md rule R240). -/

namespace Sys2Proof.Machine

/-- The dispatch state machine (10_state.md rule R30). -/
inductive Phase where
  | idle | running | halted | ended | faulted
  deriving DecidableEq, Repr

/-- The faults of the block (60_exceptions.md rule R210). -/
inductive FaultKind where
  | invalidOpcode | truncatedInstruction | cellOutOfRange
  | vstackOverflow | vstackUnderflow | cstackOverflow | cstackUnderflow
  deriving DecidableEq, Repr

/-- Sparse storage: pairs of an index and a value, indexes strictly rising, no value equal to what an unlisted index
holds (Memory.wf in Machine/Ops.lean). The image and both stacks are held so. -/
abbrev Memory (w : Nat) := List (Nat × BitVec w)

/-- The registers and storage of 10_state.md rule R20, in its order. -/
structure Arch where
  mem : List Host.Cell
  len : Nat
  ip : Word
  imm : Word
  addr0 : Word
  addr1 : Word
  addr2 : Word
  curIdx : BitVec 7
  curInl : Bool
  eq : Bool
  ne : Bool
  gt : Bool
  lt : Bool
  running : Bool
  exit : Word
  phase : Phase
  faultKind : BitVec 3
  faultIp : Word
  vstack : List (Nat × Word)
  vsp : Nat
  cstack : List (Nat × Word)
  csp : Nat
  deriving DecidableEq, Repr

/-- A trace event (10_state.md rule R45): the latches and a snapshot of the state of rule R20. -/
structure TraceEvent where
  idx : BitVec 7
  inl : Bool
  snapshot : Arch
  deriving DecidableEq, Repr

/-- The result of a run (10_state.md rule R46). -/
inductive RunResult where
  | halted (exit : Word)
  | ended (exit : Word)
  | faulted (kind : BitVec 3) (ip : Word)
  deriving DecidableEq, Repr

/-- The capability of a row as the host offers it: a reference instruction, or one of its own with what it does
(`unknown` where the host does not say). -/
inductive CapOffer where
  | reference (i : RefInstr)
  | host (body : CapBody)
  deriving DecidableEq, Repr

/-- A table row as the host offers it at registration (70_reset_and_hazards.md rule R241): the 3-bit signature code of
30_encoding.md rule R82, the capability, and the name. -/
structure RawDescriptor where
  sigCode : BitVec 3
  capability : CapOffer
  name : String
  deriving DecidableEq, Repr

/-- The host's transactions (10_state.md rule R47). -/
inductive HostCmd where
  | registerTable (rows : List RawDescriptor)
  | registerTrace
  | load (bytes : List Byte) (n : Nat)
  | run
  deriving DecidableEq, Repr

/-- What the host is told of a registration or a LOAD (rules R241 and R243). -/
inductive HostReply where
  | tableRegistered
  | tableRefused
  | traceRegistered
  | loaded
  | loadSizeError
  deriving DecidableEq, Repr

/-- The whole state: rule R20's registers and storage, the configuration (rule R12, log 1), the host's transactions not
yet served (log 7), what the ports have put out so far, newest first (log 19), and the count of free values drawn
(log 15). -/
structure State extends Arch where
  cfg : Config
  pending : List HostCmd
  tracePort : List TraceEvent
  resultPort : List RunResult
  hostReplies : List HostReply
  draws : Nat
  deriving DecidableEq, Repr

/-- Reasons the model stops with a fault. The faults of the block are not among them: taking one is a next state
(60_exceptions.md rule R212). -/
inductive Fault where
  /-- `step`, in phase RUNNING, when `running = 0` or `ip >= len`, where no cycle runs (40_dispatch.md rule R100). No
  state that meets the invariant of Safety.lean is one. Safe (log 10). -/
  | cycleGuard
  /-- `exec`, for an EXT(k) whose given capability never returns: the cycle never completes and no rule ends it
  (46_capability.md rule R196, row U10 of 93_implementation_defined.md: stuck). Safe (log 16). -/
  | capabilityHang
  deriving DecidableEq, Repr

/-- Reasons the model gives a request no meaning. -/
inductive Refusal where
  /-- `exec`, for an instruction that has no meaning yet. Safe. -/
  | notModelled (mnemonic : String)
  /-- `step`, when the host asks for a RUN and no table is registered (70_reset_and_hazards.md rules R245 and R247).
  Safe (log 11). -/
  | runWithoutTable
  deriving DecidableEq, Repr

/-- The capacities and choices of the machine at power-on (log 2): those of 95_test_vectors.md's default configuration,
with no table and no trace observer registered (log 3). -/
def powerOnConfig : Config where
  progCap := 64
  table := []
  vstackCap := 4
  cstackCap := 4
  inlineExtra := .one
  callPush := .returnAddr
  traceEn := false

/-- The power-on column of rule R20; `ip`, the image and the stack storage are DESIGN CHOICES (logs 4, 5, 6). -/
def Arch.reset : Arch where
  mem := []
  len := 0
  ip := 0
  imm := 0
  addr0 := 0
  addr1 := 0
  addr2 := 0
  curIdx := 0
  curInl := false
  eq := false
  ne := false
  gt := false
  lt := false
  running := true
  exit := 0
  phase := .idle
  faultKind := 0
  faultIp := 0
  vstack := []
  vsp := 0
  cstack := []
  csp := 0

/-- Power-on reset (70_reset_and_hazards.md rule R240). -/
def State.reset : State where
  toArch := Arch.reset
  cfg := powerOnConfig
  pending := []
  tracePort := []
  resultPort := []
  hostReplies := []
  draws := 0

end Sys2Proof.Machine
end

