-- ==== Sys2Proof/Machine/Ops.lean ====
section
/-! DEFINITION. The named operations over storage, registers and stacks, fault entry, and the end of a cycle. Everything an
instruction does to the state goes through these. -/

namespace Sys2Proof.Machine

/-! ### Sparse storage -/

/-- What an index that no entry lists holds: 0 (logs 5 and 6, DESIGN CHOICE). -/
def Memory.unlisted (w : Nat) : BitVec w := 0#w

/-- The value at index `a`. -/
def Memory.read {w : Nat} (m : Memory w) (a : Nat) : BitVec w :=
  match m with
  | [] => Memory.unlisted w
  | (k, v) :: rest => if k = a then v else Memory.read rest a

/-- Put `v` at `a`, in the place that keeps the indexes rising. -/
def Memory.insert {w : Nat} (m : Memory w) (a : Nat) (v : BitVec w) : Memory w :=
  match m with
  | [] => [(a, v)]
  | (k, u) :: rest =>
    if k < a then (k, u) :: Memory.insert rest a v
    else if k = a then (a, v) :: rest
    else (a, v) :: (k, u) :: rest

/-- Take every entry at `a` out. -/
def Memory.erase {w : Nat} (m : Memory w) (a : Nat) : Memory w :=
  match m with
  | [] => []
  | (k, v) :: rest => if k = a then Memory.erase rest a else (k, v) :: Memory.erase rest a

/-- Write `v` at `a`, keeping the canonical form: the unlisted value is never listed. -/
def Memory.write {w : Nat} (m : Memory w) (a : Nat) (v : BitVec w) : Memory w :=
  if v = Memory.unlisted w then Memory.erase m a else Memory.insert m a v

/-- Write a list of values at `a` and up. -/
def Memory.writeList {w : Nat} (m : Memory w) (a : Nat) : List (BitVec w) → Memory w
  | [] => m
  | v :: vs => Memory.writeList (Memory.write m a v) (a + 1) vs

/-- The canonical form: indexes strictly rising, no entry equal to what an unlisted index holds. -/
def Memory.wf {w : Nat} (m : Memory w) : Bool :=
  match m with
  | [] => true
  | (k, v) :: rest =>
    decide (v ≠ Memory.unlisted w) && rest.all (fun e => decide (k < e.1)) && Memory.wf rest

/-- Every listed index is below `n`. -/
def Memory.below {w : Nat} (m : Memory w) (n : Nat) : Bool :=
  m.all (fun e => decide (e.1 < n))

/-! ### Register writes, one operation per group of registers that is written together -/

/-- A write of ip. -/
def State.setIp (s : State) (v : Word) : State := { s with ip := v }

/-- The resolved operand set (10_state.md rule R26), all of it at once (40_dispatch.md rule R104). -/
def State.setOperandSet (s : State) (idx : BitVec 7) (inl : Bool) (imm a0 a1 a2 : Word) : State :=
  { s with curIdx := idx, curInl := inl, imm := imm, addr0 := a0, addr1 := a1, addr2 := a2 }

/-- The four comparison flags (10_state.md rule R27). -/
def State.setFlags (s : State) (e n g l : Bool) : State :=
  { s with eq := e, ne := n, gt := g, lt := l }

/-- The run state (10_state.md rule R29). -/
def State.setRun (s : State) (r : Bool) (x : Word) : State := { s with running := r, exit := x }

/-- The program image. -/
def State.setMem (s : State) (m : List Host.Cell) : State := { s with mem := m }

/-- The value stack: its storage and its depth. -/
def State.setVstack (s : State) (st : List (Nat × Word)) (sp : Nat) : State :=
  { s with vstack := st, vsp := sp }

/-- The call stack: its storage and its depth. -/
def State.setCstack (s : State) (st : List (Nat × Word)) (sp : Nat) : State :=
  { s with cstack := st, csp := sp }

/-- The phase and the fault registers. -/
def State.setPhase (s : State) (p : Phase) (k : BitVec 3) (fip : Word) : State :=
  { s with phase := p, faultKind := k, faultIp := fip }

/-- The result port reports `r` (10_state.md rule R46). -/
def State.report (s : State) (r : RunResult) : State :=
  { s with resultPort := r :: s.resultPort }

/-- A free value has been drawn (log 15). -/
def State.countDraw (s : State) : State := { s with draws := s.draws + 1 }

/-! ### Checked memory accessors (20_memory.md rules R65 to R67) -/

/-- The cell at `a` is in range: both of its bytes lie below `len`. -/
def State.cellInRange (s : State) (a : Word) : Bool := decide (a.toNat + 2 ≤ s.len)

/-- The two bytes at `a`, little-endian (`MemRead(a, 2)`, 00_scope.md rule R10). -/
def State.cellAt (s : State) (a : Word) : Word :=
  wordOfBytes (Memory.read s.mem (a.toNat + 1)) (Memory.read s.mem a.toNat)

/-- `CellRead(a)` (rule R66). -/
def cellRead (s : State) (a : Word) : Except FaultKind Word :=
  if s.cellInRange a then .ok (s.cellAt a) else .error .cellOutOfRange

/-- `CellWrite(a, v)` (rule R67): the check comes before either byte is written. -/
def cellWrite (s : State) (a v : Word) : Except FaultKind State :=
  if s.cellInRange a then
    .ok (s.setMem
      (Memory.write (Memory.write s.mem a.toNat (lowByte v)) (a.toNat + 1) (highByte v)))
  else .error .cellOutOfRange

/-! ### Checked stack accessors (10_state.md rules R36 and R40) -/

/-- `VPush(v)`. -/
def vPush (s : State) (v : Word) : Except FaultKind State :=
  if s.vsp < s.cfg.vstackCap then .ok (s.setVstack (Memory.write s.vstack s.vsp v) (s.vsp + 1))
  else .error .vstackOverflow

/-- `VPop()`: the value and the state after it. The storage keeps the entry (rule R37 reads it no more). -/
def vPop (s : State) : Except FaultKind (Word × State) :=
  match s.vsp with
  | 0 => .error .vstackUnderflow
  | n + 1 => .ok (Memory.read s.vstack n, s.setVstack s.vstack n)

/-- `CPush(v)`. -/
def cPush (s : State) (v : Word) : Except FaultKind State :=
  if s.csp < s.cfg.cstackCap then .ok (s.setCstack (Memory.write s.cstack s.csp v) (s.csp + 1))
  else .error .cstackOverflow

/-- `CPop()`: the value and the state after it. -/
def cPop (s : State) : Except FaultKind (Word × State) :=
  match s.csp with
  | 0 => .error .cstackUnderflow
  | n + 1 => .ok (Memory.read s.cstack n, s.setCstack s.cstack n)

/-! ### Taking a fault (60_exceptions.md rules R210 and R212) -/

/-- The code of a fault (rule R210). -/
def FaultKind.code : FaultKind → BitVec 3
  | .invalidOpcode => 1
  | .truncatedInstruction => 2
  | .cellOutOfRange => 3
  | .vstackOverflow => 4
  | .vstackUnderflow => 5
  | .cstackOverflow => 6
  | .cstackUnderflow => 7

/-- `FaultEntry(F, ip0)`: the one operation every fault goes through. It writes the fault registers, running and the
phase, nothing else, and the run's result is reported (rule R213). There is no return from it (rule R214): only a
RUN leaves phase FAULTED. -/
def raiseFault (k : FaultKind) (ip0 : Word) (s : State) : State :=
  ((s.setRun false s.exit).setPhase .faulted k.code ip0).report (.faulted k.code ip0)

/-! ### The end of a cycle (40_dispatch.md rules R109 and R110) -/

/-- Step 7: a trace event, when an observer is registered. It alters nothing else. -/
def emitTrace (s : State) : State :=
  if s.cfg.traceEn then
    { s with tracePort := { idx := s.curIdx, inl := s.curInl, snapshot := s.toArch } :: s.tracePort }
  else s

/-- Step 8: `running` is checked first, then ip against `len`. Leaving phase RUNNING reports the result
(10_state.md rule R46). -/
def endCheck (s : State) : State :=
  if s.running = false then
    (s.setPhase .halted s.faultKind s.faultIp).report (.halted s.exit)
  else if s.len ≤ s.ip.toNat then
    (s.setPhase .ended s.faultKind s.faultIp).report (.ended s.exit)
  else s

/-- How a capability ends: it returns, or an accessor it called raised `k` with the state as it stood there. -/
inductive CapOutcome where
  | returned (s : State)
  | raised (k : FaultKind) (s : State)

/-- Steps 7 and 8 after a capability that returned, or fault entry after one that did not (40_dispatch.md rule R101,
60_exceptions.md rule R212: no trace event and no end-of-cycle check then). -/
def finishCycle (ip0 : Word) : CapOutcome → State
  | .returned s => endCheck (emitTrace s)
  | .raised k s => raiseFault k ip0 s

end Sys2Proof.Machine
end

