-- ==== Sys2Proof/Machine/Operands.lean ====
section
/-! DEFINITION. The operand resolver and the ip advance (40_dispatch.md rules R104 to R107), for every signature with and without the
inline flag; the cycle around a capability; the fetch of an instruction's bytes. -/

namespace Sys2Proof.Machine

/-- A slot index widened to an address (30_encoding.md rule R87). -/
def slotAddr (s0 : Byte) : Word := s0.setWidth 16

/-- The embedded cell of an inline-flagged instruction with `n` operand bytes: `ip0 + 1 + n` (rule R106). -/
def embeddedAddr (ip0 : Word) (n : Nat) : Word := BitVec.ofNat 16 (ip0.toNat + 1 + n)

/-- The last operand's address: the embedded cell when the inline flag is set, else the slot (rules R105 and R106). -/
def lastAddr (ip0 : Word) (inl : Bool) (n : Nat) (slot : Byte) : Word :=
  if inl then embeddedAddr ip0 n else slotAddr slot

/-- `imm` after step 4 (rule R104): the immediate for WORD, 0 for every other signature. -/
def resolvedImm : Operands → Word
  | .word v => v
  | _ => 0

/-- `addr[0]` after step 4 (rules R104 to R106). -/
def resolvedAddr0 (ip0 : Word) (inl : Bool) : Operands → Word
  | .b1 s0 => lastAddr ip0 inl 1 s0
  | .b2 s0 _ => slotAddr s0
  | .b3 s0 _ _ => slotAddr s0
  | _ => 0

/-- `addr[1]` after step 4 (rules R104 to R106). -/
def resolvedAddr1 (ip0 : Word) (inl : Bool) : Operands → Word
  | .b2 _ s1 => lastAddr ip0 inl 2 s1
  | .b3 _ s1 _ => slotAddr s1
  | _ => 0

/-- `addr[2]` after step 4 (rules R104 to R106). -/
def resolvedAddr2 (ip0 : Word) (inl : Bool) : Operands → Word
  | .b3 _ _ s2 => lastAddr ip0 inl 3 s2
  | _ => 0

/-- ip after step 5: `ip0 + L` (rule R107). It cannot wrap while `ip0 < len <= PROG_CAP` (10_state.md rule R22). -/
def advancedIp (extra : InlineExtra) (ip0 : Word) (sig : Signature) (inl : Bool) : Word :=
  BitVec.ofNat 16 (ip0.toNat + instrLength extra sig inl)

/-- Steps 4 and 5 of the cycle: the operand set is resolved and ip advances. What a capability starts from
(rule R108). -/
def State.decoded (s : State) (idx : BitVec 7) (inl : Bool) (ops : Operands) : State :=
  (s.setOperandSet idx inl (resolvedImm ops) (resolvedAddr0 s.ip inl ops)
    (resolvedAddr1 s.ip inl ops) (resolvedAddr2 s.ip inl ops)).setIp
    (advancedIp s.cfg.inlineExtra s.ip ops.signature inl)

/-- Steps 4 to 8 of the cycle around the capability `cap`, from the state whose ip is `ip0` (rule R101). -/
def runCycle (idx : BitVec 7) (inl : Bool) (ops : Operands) (cap : State → CapOutcome)
    (s : State) : State :=
  finishCycle s.ip (cap (s.decoded idx inl ops))

/-- The bytes `Fetch8` can give from `a`, at most `n` of them: those below `len` (20_memory.md rule R65). -/
def State.fetchBytes (s : State) (a : Nat) : Nat → List Byte
  | 0 => []
  | n + 1 => if a < s.len then Memory.read s.mem a :: s.fetchBytes (a + 1) n else []

/-- What the fetch of a cycle gives (40_dispatch.md rules R100 to R103). -/
inductive Fetched where
  /-- The instruction at ip. -/
  | instr (i : Instr)
  /-- The cycle ends in the fetch, in this state. -/
  | ended (t : State)
  /-- No cycle runs here (rule R100). -/
  | outside

/-- Steps 1 to 4 up to the operand bytes: four bytes are the most a cycle fetches. A byte at `len` or above raises
TRUNCATED_INSTRUCTION before any write of the cycle (rules R101 and R103). -/
def fetch (s : State) : Fetched :=
  if s.running && decide (s.ip.toNat < s.len) then
    match decode s.cfg.table (s.fetchBytes s.ip.toNat 4) with
    | .ok (i, _) => .instr i
    | .error .truncated => .ended (raiseFault .truncatedInstruction s.ip s)
  else .outside

end Sys2Proof.Machine
end

