-- ==== Sys2Proof/Machine/CallStack.lean ====
section
/-! DEFINITION. CALL and RETURN (45_call.md rules R180 and R181). -/

namespace Sys2Proof.Machine

/-- The continuation CALL pushes: the advanced ip, or the target under `CALL_PUSH = TARGET` (rule R180). -/
def continuation (s : State) : Word :=
  match s.cfg.callPush with
  | .returnAddr => s.ip
  | .target => s.imm

/-- CALL's capability: on overflow nothing is pushed and ip keeps the advance. -/
def capCall (s : State) : CapOutcome :=
  match cPush s (continuation s) with
  | .error k => .raised k s
  | .ok t => .returned (t.setIp s.imm)

/-- CALL (rule R180). -/
def execCall (idx : BitVec 7) (inl : Bool) (imm : Word) (s : State) :
    Host.Outcome State Fault Refusal :=
  .next (runCycle idx inl (.word imm) capCall s)

/-- RETURN's capability: on underflow ip keeps the advance. -/
def capReturn (s : State) : CapOutcome :=
  match cPop s with
  | .error k => .raised k s
  | .ok (c, t) => .returned (t.setIp c)

/-- RETURN (rule R181). -/
def execReturn (idx : BitVec 7) (inl : Bool) (s : State) : Host.Outcome State Fault Refusal :=
  .next (runCycle idx inl .none capReturn s)

end Sys2Proof.Machine
end

