-- ==== Sys2Proof/Machine/Flags.lean ====
section
/-! DEFINITION. The flag computations of COMPARE (42_compare.md rules R140 and R141): signed 16-bit comparison, the formulas of
90_conflicts.md C1. -/

namespace Sys2Proof.Machine

/-- `eq`: a equals b. -/
def flagEq (a b : Word) : Bool := decide (a = b)

/-- `ne`: a differs from b. -/
def flagNe (a b : Word) : Bool := decide (a ≠ b)

/-- `gt`: a is greater than b, both read as `i16`. -/
def flagGt (a b : Word) : Bool := decide (b.toInt < a.toInt)

/-- `lt`: a is less than b, both read as `i16`. -/
def flagLt (a b : Word) : Bool := decide (a.toInt < b.toInt)

/-- The flag store after a COMPARE of a and b. -/
def State.compareFlags (s : State) (a b : Word) : State :=
  s.setFlags (flagEq a b) (flagNe a b) (flagGt a b) (flagLt a b)

end Sys2Proof.Machine
end

