-- ==== Sys2Proof/Machine/Compare.lean ====
section
/-! DEFINITION. COMPARE (42_compare.md rule R140). -/

namespace Sys2Proof.Machine

/-- COMPARE's capability: both cells are read, the left one first, before any flag is written. -/
def capCompare (s : State) : CapOutcome :=
  match cellRead s s.addr0 with
  | .error k => .raised k s
  | .ok a =>
    match cellRead s s.addr1 with
    | .error k => .raised k s
    | .ok b => .returned (s.compareFlags a b)

/-- COMPARE (rule R140). -/
def execCompare (idx : BitVec 7) (inl : Bool) (s0 s1 : Byte) (s : State) :
    Host.Outcome State Fault Refusal :=
  .next (runCycle idx inl (.b2 s0 s1) capCompare s)

end Sys2Proof.Machine
end

