-- ==== Sys2Proof/Machine/Halt.lean ====
section
/-! DEFINITION. EXIT (41_exit.md rule R130) and the illegal opcode byte (30_encoding.md rule R90). -/

namespace Sys2Proof.Machine

/-- EXIT's capability: `exit <- imm`, `running <- 0`. -/
def capExit (s : State) : CapOutcome := .returned (s.setRun false s.imm)

/-- EXIT (rule R130). -/
def execExit (idx : BitVec 7) (inl : Bool) (imm : Word) (s : State) :
    Host.Outcome State Fault Refusal :=
  .next (runCycle idx inl (.word imm) capExit s)

/-- An opcode byte whose index is not below `TABLE_LEN` (30_encoding.md rule R90): INVALID_OPCODE before any write of the
cycle (40_dispatch.md rules R101 and R103). The inline flag and the index do not matter. -/
def execIllegal (_idx : BitVec 7) (_inl : Bool) (s : State) : Host.Outcome State Fault Refusal :=
  .next (raiseFault .invalidOpcode s.ip s)

end Sys2Proof.Machine
end

