-- ==== Sys2Proof/Machine/HostCapability.lean ====
section
/-! DEFINITION. EXT(k), a host capability (46_capability.md): the actions rules R192 and R193 allow, a capability whose
behaviour the configuration gives, and one that is unknown, the free value Config.hostCapability (rule R197). -/

namespace Sys2Proof.Machine

/-- The live entries of a stack, the top one first. -/
def liveEntries (st : List (Nat × Word)) : Nat → List Word
  | 0 => []
  | n + 1 => Memory.read st n :: liveEntries st n

/-- What the capability sees (rule R192). -/
def capView (s : State) : CapView where
  imm := s.imm
  addr0 := s.addr0
  addr1 := s.addr1
  addr2 := s.addr2
  curIdx := s.curIdx
  curInl := s.curInl
  ip := s.ip
  eq := s.eq
  ne := s.ne
  gt := s.gt
  lt := s.lt
  running := s.running
  exit := s.exit
  image := (List.range s.len).map (Memory.read s.mem)
  values := liveEntries s.vstack s.vsp
  calls := liveEntries s.cstack s.csp

/-- A write of one of the three operand address registers (rule R193). -/
def State.setAddr (s : State) (i : Fin 3) (v : Word) : State :=
  match i with
  | 0 => s.setOperandSet s.curIdx s.curInl s.imm v s.addr1 s.addr2
  | 1 => s.setOperandSet s.curIdx s.curInl s.imm s.addr0 v s.addr2
  | 2 => s.setOperandSet s.curIdx s.curInl s.imm s.addr0 s.addr1 v

/-- One action of a capability: the checked accessors of rules R36, R40, R66 and R67, and the register writes of rule
R193. -/
def capAction (s : State) : CapAction → Except FaultKind State
  | .readCell a => (cellRead s a).map fun _ => s
  | .writeCell a v => cellWrite s a v
  | .pushValue v => vPush s v
  | .popValue => (vPop s).map Prod.snd
  | .pushCall v => cPush s v
  | .popCall => (cPop s).map Prod.snd
  | .setIp v => .ok (s.setIp v)
  | .setImm v => .ok (s.setOperandSet s.curIdx s.curInl v s.addr0 s.addr1 s.addr2)
  | .setAddr i v => .ok (s.setAddr i v)
  | .setEq b => .ok (s.setFlags b s.ne s.gt s.lt)
  | .setNe b => .ok (s.setFlags s.eq b s.gt s.lt)
  | .setGt b => .ok (s.setFlags s.eq s.ne b s.lt)
  | .setLt b => .ok (s.setFlags s.eq s.ne s.gt b)
  | .setRunning b => .ok (s.setRun b s.exit)
  | .setExit v => .ok (s.setRun s.running v)

/-- The actions in order, up to the first that raises (rule R195). -/
def runActions (s : State) : List CapAction → CapOutcome
  | [] => .returned s
  | a :: rest =>
    match capAction s a with
    | .error k => .raised k s
    | .ok t => runActions t rest

/-! ### A capability the host gives (log 29) -/

/-- A truth value as a word. -/
def wordOfBool (b : Bool) : Word := if b then 1 else 0

/-- A register a capability may read (rule R192), as a word. -/
def readCapReg (s : State) : CapReg → Word
  | .imm => s.imm
  | .addr0 => s.addr0
  | .addr1 => s.addr1
  | .addr2 => s.addr2
  | .curIdx => s.curIdx.setWidth 16
  | .curInl => wordOfBool s.curInl
  | .ip => s.ip
  | .eq => wordOfBool s.eq
  | .ne => wordOfBool s.ne
  | .gt => wordOfBool s.gt
  | .lt => wordOfBool s.lt
  | .running => wordOfBool s.running
  | .exit => s.exit

/-- The operations on 16-bit words. They wrap; quotient and remainder are signed and rounded towards zero, and 0 and the
dividend for the divisor 0. -/
def applyCapOp (x y : Word) : CapOp → Word
  | .add => x + y
  | .sub => x - y
  | .mul => x * y
  | .divide => x.sdiv y
  | .remainder => x.srem y
  | .and => x &&& y
  | .or => x ||| y
  | .xor => x ^^^ y
  | .shiftLeft => x <<< y.toNat
  | .shiftRight => x >>> y.toNat
  | .equal => wordOfBool (decide (x = y))
  | .less => wordOfBool (decide (x.toInt < y.toInt))
  | .lessUnsigned => wordOfBool (decide (x.toNat < y.toNat))

/-- The value of an expression where the accessors and inputs so far answered `results`, the newest first; 0 for a
result that is not there. -/
def evalCapExpr (s : State) (results : List Word) : CapExpr → Word
  | .word v => v
  | .reg r => readCapReg s r
  | .result n => results.getD n 0
  | .op o x y => applyCapOp (evalCapExpr s results x) (evalCapExpr s results y) o

/-- A call with its words and truth values replaced. -/
def mapCapCall {W B V C : Type} (f : W → V) (g : B → C) : CapCall W B → CapCall V C
  | .readCell a => .readCell (f a)
  | .writeCell a v => .writeCell (f a) (f v)
  | .pushValue v => .pushValue (f v)
  | .popValue => .popValue
  | .pushCall v => .pushCall (f v)
  | .popCall => .popCall
  | .setIp v => .setIp (f v)
  | .setImm v => .setImm (f v)
  | .setAddr i v => .setAddr i (f v)
  | .setEq b => .setEq (g b)
  | .setNe b => .setNe (g b)
  | .setGt b => .setGt (g b)
  | .setLt b => .setLt (g b)
  | .setRunning b => .setRunning (g b)
  | .setExit v => .setExit (f v)

/-- The action a call stands for; a word that is not 0 is true. -/
def groundCall (s : State) (results : List Word) (c : CapCall CapExpr CapExpr) : CapAction :=
  mapCapCall (evalCapExpr s results) (fun e => decide (evalCapExpr s results e ≠ 0)) c

/-- What an action answers to the capability: the cell read or the entry popped. -/
def capAnswers (s : State) : CapAction → List Word
  | .readCell a => (cellRead s a).toOption.toList
  | .popValue => ((vPop s).map Prod.fst).toOption.toList
  | .popCall => ((cPop s).map Prod.fst).toOption.toList
  | .writeCell _ _ | .pushValue _ | .pushCall _ | .setIp _ | .setImm _ | .setAddr _ _ | .setEq _
  | .setNe _ | .setGt _ | .setLt _ | .setRunning _ | .setExit _ => []

/-- A capability with the body given, at row `k`: how it ends, or none if it never returns. An accessor that fails raises
its fault and the writes before it stay (rule R195). -/
def runBody (k : BitVec 7) : CapBody → List Word → State → Option CapOutcome
  | .finish, _, s => some (.returned s)
  | .hang, _, _ => none
  | .unknown, _, s =>
    some (runActions s.countDraw (Config.hostCapability k (capView s) s.draws))
  | .call c next, results, s =>
    match capAction s (groundCall s results c) with
    | .error f => some (.raised f s)
    | .ok t => runBody k next (capAnswers s (groundCall s results c) ++ results) t
  | .branch c yes no, results, s =>
    if evalCapExpr s results c ≠ 0 then runBody k yes results s else runBody k no results s
  | .choose x y, results, s =>
    if Config.freeChoice s.draws then runBody k x results s.countDraw
    else runBody k y results s.countDraw
  | .input next, results, s => runBody k next (Config.freeInput s.draws :: results) s.countDraw

/-- What the capability of row `k` does; unknown where the row holds no host capability. -/
def bodyAt (table : List Descriptor) (k : BitVec 7) : CapBody :=
  match table[k.toNat]? with
  | some ⟨_, .host _ body⟩ => body
  | _ => .unknown

/-- The capability at row `k` of the registered table (rule R191). -/
def capHost (k : BitVec 7) (s : State) : Option CapOutcome :=
  runBody k (bodyAt s.cfg.table k) [] s

/-- EXT(k) (rule R190). A capability that never returns leaves the cycle incomplete: there is no next state (rule
R196). -/
def execExt (idx : BitVec 7) (inl : Bool) (ops : Operands) (s : State) :
    Host.Outcome State Fault Refusal :=
  match capHost idx (s.decoded idx inl ops) with
  | some o => .next (finishCycle s.ip o)
  | none => .fault .capabilityHang

end Sys2Proof.Machine
end

