-- ==== Sys2Proof/Machine/Jump.lean ====
section
/-! DEFINITION. GOTO and the four conditional GOTOs (43_branch.md rules R150 to R155). The target is absolute; one outside the program
is no fault, the end-of-cycle check ends the run. -/

namespace Sys2Proof.Machine

/-- A jump to the immediate if `c` holds of the state at invocation, else the advance stays (rule R155). -/
def capJumpIf (c : State → Bool) (s : State) : CapOutcome :=
  .returned (if c s then s.setIp s.imm else s)

/-- GOTO (rule R150). -/
def execGoto (idx : BitVec 7) (inl : Bool) (imm : Word) (s : State) :
    Host.Outcome State Fault Refusal :=
  .next (runCycle idx inl (.word imm) (capJumpIf fun _ => true) s)

/-- GOTO_EQUALS (rule R151). -/
def execGotoEquals (idx : BitVec 7) (inl : Bool) (imm : Word) (s : State) :
    Host.Outcome State Fault Refusal :=
  .next (runCycle idx inl (.word imm) (capJumpIf fun t => t.eq) s)

/-- GOTO_NOT_EQUALS (rule R152). -/
def execGotoNotEquals (idx : BitVec 7) (inl : Bool) (imm : Word) (s : State) :
    Host.Outcome State Fault Refusal :=
  .next (runCycle idx inl (.word imm) (capJumpIf fun t => t.ne) s)

/-- GOTO_GREATER (rule R153). -/
def execGotoGreater (idx : BitVec 7) (inl : Bool) (imm : Word) (s : State) :
    Host.Outcome State Fault Refusal :=
  .next (runCycle idx inl (.word imm) (capJumpIf fun t => t.gt) s)

/-- GOTO_LESS (rule R154). -/
def execGotoLess (idx : BitVec 7) (inl : Bool) (imm : Word) (s : State) :
    Host.Outcome State Fault Refusal :=
  .next (runCycle idx inl (.word imm) (capJumpIf fun t => t.lt) s)

end Sys2Proof.Machine
end

