-- ==== Sys2Proof/Machine/ValueStack.lean ====
section
/-! DEFINITION. PUSH and POP (44_stack.md rules R170 and R171). -/

namespace Sys2Proof.Machine

/-- PUSH's capability: the cell is read first, then the stack is checked. -/
def capPush (s : State) : CapOutcome :=
  match cellRead s s.addr0 with
  | .error k => .raised k s
  | .ok v =>
    match vPush s v with
    | .error k => .raised k s
    | .ok t => .returned t

/-- PUSH (rule R170). -/
def execPush (idx : BitVec 7) (inl : Bool) (s0 : Byte) (s : State) :
    Host.Outcome State Fault Refusal :=
  .next (runCycle idx inl (.b1 s0) capPush s)

/-- POP's capability: the cell is checked first, so on either fault neither the stack nor the image is written. The write
that follows cannot fail: the pop changes neither the address nor `len`. -/
def capPop (s : State) : CapOutcome :=
  if s.cellInRange s.addr0 then
    match vPop s with
    | .error k => .raised k s
    | .ok (v, t) =>
      match cellWrite t s.addr0 v with
      | .error k => .raised k t
      | .ok u => .returned u
  else .raised .cellOutOfRange s

/-- POP (rule R171). -/
def execPop (idx : BitVec 7) (inl : Bool) (s0 : Byte) (s : State) :
    Host.Outcome State Fault Refusal :=
  .next (runCycle idx inl (.b1 s0) capPop s)

end Sys2Proof.Machine
end

