-- ==== Sys2Proof/Machine/Dispatch.lean ====
section
/-! DEFINITION. The dispatch multiplexer (40_dispatch.md rule R108): one arm per instruction. Each meaning is the whole cycle of its
instruction after the fetch, steps 4 to 8 of rule R101, from the state whose ip is ip0 (log 27). -/

namespace Sys2Proof.Machine

def exec (i : Instr) (s : State) : Host.Outcome State Fault Refusal :=
  match i with
  | .exit idx inl imm => Sys2Proof.Machine.execExit idx inl imm s
  | .goto idx inl imm => Sys2Proof.Machine.execGoto idx inl imm s
  | .gotoEquals idx inl imm => Sys2Proof.Machine.execGotoEquals idx inl imm s
  | .gotoNotEquals idx inl imm => Sys2Proof.Machine.execGotoNotEquals idx inl imm s
  | .gotoGreater idx inl imm => Sys2Proof.Machine.execGotoGreater idx inl imm s
  | .gotoLess idx inl imm => Sys2Proof.Machine.execGotoLess idx inl imm s
  | .compare idx inl s0 s1 => Sys2Proof.Machine.execCompare idx inl s0 s1 s
  | .push idx inl s0 => Sys2Proof.Machine.execPush idx inl s0 s
  | .pop idx inl s0 => Sys2Proof.Machine.execPop idx inl s0 s
  | .call idx inl imm => Sys2Proof.Machine.execCall idx inl imm s
  | .ret idx inl => Sys2Proof.Machine.execReturn idx inl s
  | .ext idx inl ops => Sys2Proof.Machine.execExt idx inl ops s
  | .illegal idx inl => Sys2Proof.Machine.execIllegal idx inl s

end Sys2Proof.Machine
end

