-- ==== Sys2Proof/Machine/HostPort.lean ====
section
/-! DEFINITION. The host's transactions between runs (10_state.md rule R47): table and trace registration, LOAD and RUN
(70_reset_and_hazards.md rules R241 to R245). -/

namespace Sys2Proof.Machine

/-- The signature codes of 30_encoding.md rule R82; 5 to 7 are not legal. -/
def signatureOfCode (c : BitVec 3) : Option Signature :=
  match c.toNat with
  | 0 => some .none
  | 1 => some .word
  | 2 => some .b1
  | 3 => some .b2
  | 4 => some .b3
  | _ => none

/-- A row the host offers, or none where its signature code is illegal (rule R241), or where it gives a reference
instruction another signature than its own (30_encoding.md rule R89, log 13). -/
def descriptorOf (r : RawDescriptor) : Option Descriptor :=
  match signatureOfCode r.sigCode with
  | none => none
  | some sig =>
    match r.capability with
    | .host body => some ⟨r.name, .host sig body⟩
    | .reference i => if i.signature = sig then some ⟨r.name, .reference i⟩ else none

/-- All rows, or none where one is refused. -/
def descriptorsOf : List RawDescriptor → Option (List Descriptor)
  | [] => some []
  | r :: rest =>
    match descriptorOf r, descriptorsOf rest with
    | some d, some ds => some (d :: ds)
    | _, _ => none

/-- The table a registration gives, refused when `TABLE_LEN` is outside 1..128 (rule R241). -/
def tableOf (rows : List RawDescriptor) : Option (List Descriptor) :=
  if 1 ≤ rows.length ∧ rows.length ≤ 128 then descriptorsOf rows else none

/-- The answer to a registration or a LOAD. -/
def State.reply (s : State) (r : HostReply) : State :=
  { s with hostReplies := r :: s.hostReplies }

/-- The configuration. -/
def State.setConfig (s : State) (c : Config) : State := { s with cfg := c }

/-- Table registration (rule R241). -/
def registerTable (rows : List RawDescriptor) (s : State) : State :=
  match tableOf rows with
  | some t => (s.setConfig { s.cfg with table := t }).reply .tableRegistered
  | none => s.reply .tableRefused

/-- Trace registration (rule R241): it sets `TRACE_EN`. -/
def registerTrace (s : State) : State :=
  (s.setConfig { s.cfg with traceEn := true }).reply .traceRegistered

/-- The bytes of LOAD(bytes, n); one the sequence does not supply is free (log 14). -/
def loadBytes (bytes : List Byte) (n draw : Nat) : List Byte :=
  (List.range n).map fun a => bytes.getD a (Config.freeLoadByte draw a)

/-- The image and its logical end. -/
def State.setImage (s : State) (m : List Host.Cell) (n : Nat) : State :=
  { s with mem := m, len := n }

/-- LOAD(bytes, n) (rules R242 to R244). The bytes at n and above are unspecified; they keep what they held (log 5). -/
def load (bytes : List Byte) (n : Nat) (s : State) : State :=
  if n ≤ s.cfg.progCap then
    ((s.setImage (Memory.writeList s.mem 0 (loadBytes bytes n s.draws)) n).countDraw).reply .loaded
  else s.reply .loadSizeError

/-- The register writes of RunStart (rule R245), with `phase <- RUNNING`. -/
def startRegisters (s : State) : State :=
  ((((((s.setOperandSet 0 false 0 0 0 0).setIp 0).setFlags false false false false).setRun true 0).setPhase
    .running 0 0).setVstack s.vstack 0).setCstack s.cstack 0

/-- RunStart (rule R245): an empty program ends at once. The cycles of the run are the steps that follow. -/
def runStart (s : State) : State :=
  if (startRegisters s).len ≤ (startRegisters s).ip.toNat then
    ((startRegisters s).setPhase .ended 0 0).report (.ended (startRegisters s).exit)
  else startRegisters s

/-- The transactions still waiting. -/
def State.setPending (s : State) (cs : List HostCmd) : State := { s with pending := cs }

/-- RUN (rule R245): refused where no table is registered, since the host must register one first (rule R247,
log 11). -/
def run (s : State) : Host.Outcome State Fault Refusal :=
  if s.cfg.table = [] then .refused .runWithoutTable else .next (runStart s)

/-- One transaction. -/
def serve (s : State) : HostCmd → Host.Outcome State Fault Refusal
  | .registerTable rows => .next (registerTable rows s)
  | .registerTrace => .next (registerTrace s)
  | .load bytes n => .next (load bytes n s)
  | .run => run s

/-- What happens outside a run: the oldest waiting transaction is served; with none the block keeps all its state
(60_exceptions.md rule R224, log 9). -/
def betweenRuns (s : State) : Host.Outcome State Fault Refusal :=
  match s.pending with
  | [] => .next s
  | c :: rest => serve (s.setPending rest) c

end Sys2Proof.Machine
end

