-- ==== Sys2Proof/Machine/Step.lean ====
section
/-! DEFINITION. One step: in phase RUNNING one dispatch cycle (00_scope.md rule R14, 40_dispatch.md rule R112), else one host
transaction. And the host's way to place one instruction where the next step fetches it. -/

namespace Sys2Proof.Machine

/-- One step of the block. -/
def step (s : State) : Host.Outcome State Fault Refusal :=
  match s.phase with
  | .running =>
    match fetch s with
    | .instr i => exec i s
    | .ended t => .next t
    | .outside => .fault .cycleGuard
  | _ => betweenRuns s

/-- `s` inside a run, with the instruction whose bits are `w` at ip (log 21): six bytes, the longest instruction, below
`len`, the reference table where none is registered. It stands for the registration, LOAD and RUN of
70_reset_and_hazards.md rule R247 (log 8). -/
def State.withFetchWord (s : State) (nbits w : Nat) : State :=
  { s with
    mem := Memory.writeList s.mem s.ip.toNat (tableBytes nbits w 6)
    len := max s.len (s.ip.toNat + 6)
    running := true
    phase := .running
    cfg := { s.cfg with table := if s.cfg.table = [] then referenceTable else s.cfg.table } }

end Sys2Proof.Machine
end

