-- ==== Sys2Proof/Safety.lean ====
section
/-! DEFINITION. The terms claims are made in: when a cycle may run, the invariant of the block, what stays as it was, what the end of a
cycle and a fault leave, and the plain list a stack is compared with. -/

namespace Sys2Proof.Machine

/-- The precondition of a cycle (40_dispatch.md rule R100). -/
abbrev State.CycleReady (s : State) : Prop :=
  s.phase = .running ∧ s.running = true ∧ s.ip.toNat < s.len

/-! ### The invariant -/

/-- The parameters are legal (00_scope.md rule R7). -/
abbrev State.ConfigOk (s : State) : Prop := s.cfg.wellFormed = true

/-- `len <= PROG_CAP` (20_memory.md rule R60), the image in canonical form and inside its capacity. -/
abbrev State.ImageOk (s : State) : Prop :=
  s.len ≤ s.cfg.progCap ∧ Memory.wf s.mem = true ∧ Memory.below s.mem s.cfg.progCap = true

/-- The depths and the storage of the stacks lie inside their capacities (10_state.md rules R33 and R35). -/
abbrev State.StacksOk (s : State) : Prop :=
  (s.vsp ≤ s.cfg.vstackCap ∧ Memory.wf s.vstack = true ∧
    Memory.below s.vstack s.cfg.vstackCap = true) ∧
  (s.csp ≤ s.cfg.cstackCap ∧ Memory.wf s.cstack = true ∧
    Memory.below s.cstack s.cfg.cstackCap = true)

/-- The invariant of 10_state.md rule R31. -/
abbrev State.RunStateOk (s : State) : Prop :=
  ((s.phase = .halted ∨ s.phase = .faulted) → s.running = false) ∧
  ((s.phase = .running ∨ s.phase = .ended) → s.running = true) ∧
  (s.phase = .faulted → s.faultKind ≠ 0) ∧
  (s.phase ≠ .faulted → s.faultKind = 0)

/-- The guard of the loop holds at every cycle (40_dispatch.md rule R112), and a run has a table
(70_reset_and_hazards.md rule R245). -/
abbrev State.LoopOk (s : State) : Prop :=
  s.phase = .running → s.ip.toNat < s.len ∧ s.cfg.table ≠ []

/-- The invariant of the block. -/
abbrev State.Inv (s : State) : Prop :=
  s.ConfigOk ∧ s.ImageOk ∧ s.StacksOk ∧ s.RunStateOk ∧ s.LoopOk

/-! ### What stays -/

/-- Every byte of the image, and the logical end. -/
def ImageKept (s t : State) : Prop :=
  t.len = s.len ∧ ∀ a, Memory.read t.mem a = Memory.read s.mem a

/-- Every byte of the image but those of the cell at `a`, and the logical end. -/
def ImageKeptOutside (a : Word) (s t : State) : Prop :=
  t.len = s.len ∧
    ∀ b, b ≠ a.toNat → b ≠ a.toNat + 1 → Memory.read t.mem b = Memory.read s.mem b

/-- The four flags. -/
def FlagsKept (s t : State) : Prop :=
  t.eq = s.eq ∧ t.ne = s.ne ∧ t.gt = s.gt ∧ t.lt = s.lt

/-- The value stack: its depth and every entry of its storage. -/
def ValueStackKept (s t : State) : Prop :=
  t.vsp = s.vsp ∧ ∀ n, Memory.read t.vstack n = Memory.read s.vstack n

/-- The call stack: its depth and every entry of its storage. -/
def CallStackKept (s t : State) : Prop :=
  t.csp = s.csp ∧ ∀ n, Memory.read t.cstack n = Memory.read s.cstack n

/-- The fault registers. -/
def FaultRegsKept (s t : State) : Prop :=
  t.faultKind = s.faultKind ∧ t.faultIp = s.faultIp

/-- What only the host changes: the configuration (00_scope.md rule R12), its waiting transactions and the answers
to them. -/
def HostSideKept (s t : State) : Prop :=
  t.cfg = s.cfg ∧ t.pending = s.pending ∧ t.hostReplies = s.hostReplies

/-- `running` and the fault registers, unless the cycle took a fault, which writes them (60_exceptions.md rule
R212). -/
def RunRegsKeptUnlessFaulted (s t : State) : Prop :=
  t.phase ≠ .faulted → t.running = s.running ∧ FaultRegsKept s t

/-- The resolved operand set (10_state.md rule R26) reads so. -/
def OperandSetIs (t : State) (idx : BitVec 7) (inl : Bool) (imm a0 a1 a2 : Word) : Prop :=
  t.curIdx = idx ∧ t.curInl = inl ∧ t.imm = imm ∧ t.addr0 = a0 ∧ t.addr1 = a1 ∧ t.addr2 = a2

/-- The operand set and ip, which a cycle that faults in its fetch leaves alone. -/
def DecodeRegsKept (s t : State) : Prop :=
  t.ip = s.ip ∧ OperandSetIs t s.curIdx s.curInl s.imm s.addr0 s.addr1 s.addr2

/-! ### What the end of a cycle and a fault leave -/

/-- ip after the advance of an instruction with `n` operand bytes (40_dispatch.md rule R107). -/
def advanced (s : State) (n : Nat) (inl : Bool) : Word :=
  BitVec.ofNat 16 (s.ip.toNat + 1 + n + (if inl then s.cfg.inlineExtra.bytes else 0))

/-- Steps 7 and 8 of the cycle that took `s` to `t` without a fault (40_dispatch.md rules R109 and R110, 10_state.md
rules R45 and R46). -/
def CycleEnds (s t : State) : Prop :=
  FaultRegsKept s t ∧
  t.tracePort = (if s.cfg.traceEn then
      ⟨t.curIdx, t.curInl, { t.toArch with phase := s.phase }⟩ :: s.tracePort else s.tracePort) ∧
  (t.phase, t.resultPort) =
    (if t.running = false then (.halted, .halted t.exit :: s.resultPort)
     else if t.len ≤ t.ip.toNat then (.ended, .ended t.exit :: s.resultPort)
     else (s.phase, s.resultPort))

/-- Fault entry with the code `code` in the cycle that began at `s` (60_exceptions.md rules R212 and R213): the fault
registers, running, the phase and the result; no trace event; exit stays. -/
def FaultTaken (s t : State) (code : BitVec 3) : Prop :=
  t.faultKind = code ∧ t.faultIp = s.ip ∧ t.running = false ∧ t.phase = .faulted ∧
  t.resultPort = .faulted code s.ip :: s.resultPort ∧ t.tracePort = s.tracePort ∧
  t.exit = s.exit

/-- A fault of an instruction with the operand bytes `ops` in step 6: fault entry, the decode writes and the advance
stay, and nothing else is written (60_exceptions.md rule R211, 40_dispatch.md rule R101). -/
def FaultAfterDecode (s t : State) (idx : BitVec 7) (inl : Bool) (ops : Operands)
    (code : BitVec 3) : Prop :=
  FaultTaken s t code ∧
  OperandSetIs t idx inl (resolvedImm ops) (resolvedAddr0 s.ip inl ops)
    (resolvedAddr1 s.ip inl ops) (resolvedAddr2 s.ip inl ops) ∧
  t.ip = advanced s ops.signature.operandBytes inl ∧
  FlagsKept s t ∧ ValueStackKept s t ∧ CallStackKept s t ∧ ImageKept s t ∧ HostSideKept s t ∧
  t.draws = s.draws

/-! ### A stack beside a plain list (10_state.md rule R38) -/

/-- A push or a pop. -/
inductive StackOp where
  | push (v : Word)
  | pop
  deriving DecidableEq, Repr

/-- The values popped and the state after a sequence on the value stack, or the first fault. -/
def valueStackRun (s : State) : List StackOp → Except FaultKind (List Word × State)
  | [] => .ok ([], s)
  | .push v :: ops =>
    match vPush s v with
    | .error k => .error k
    | .ok t => valueStackRun t ops
  | .pop :: ops =>
    match vPop s with
    | .error k => .error k
    | .ok (v, t) => (valueStackRun t ops).map fun p => (v :: p.1, p.2)

/-- The same sequence on the call stack. -/
def callStackRun (s : State) : List StackOp → Except FaultKind (List Word × State)
  | [] => .ok ([], s)
  | .push v :: ops =>
    match cPush s v with
    | .error k => .error k
    | .ok t => callStackRun t ops
  | .pop :: ops =>
    match cPop s with
    | .error k => .error k
    | .ok (v, t) => (callStackRun t ops).map fun p => (v :: p.1, p.2)

/-- The same sequence on a plain list of at most `cap` entries, the top one first, with the faults `full` and
`empty`. -/
def listRun (cap : Nat) (full empty : FaultKind) (l : List Word) :
    List StackOp → Except FaultKind (List Word × List Word)
  | [] => .ok ([], l)
  | .push v :: ops => if l.length < cap then listRun cap full empty (v :: l) ops else .error full
  | .pop :: ops =>
    match l with
    | [] => .error empty
    | v :: rest => (listRun cap full empty rest ops).map fun p => (v :: p.1, p.2)

/-! ### What a host capability is given as (46_capability.md rule R197) -/

/-- The body can reach `hang` (log 16). -/
def mayHang : CapBody → Bool
  | .finish | .unknown => false
  | .hang => true
  | .call _ next => mayHang next
  | .branch _ yes no => mayHang yes || mayHang no
  | .choose x y => mayHang x || mayHang y
  | .input next => mayHang next

/-- A capability that takes the actions `as` in order and returns. -/
def bodyOfActions : List CapAction → CapBody
  | [] => .finish
  | a :: rest => .call (mapCapCall .word (fun b => .word (wordOfBool b)) a) (bodyOfActions rest)

/-- The legal 3-bit code of a signature (30_encoding.md rule R82). -/
def signatureCode : Signature → Nat
  | .none => 0
  | .word => 1
  | .b1 => 2
  | .b2 => 3
  | .b3 => 4

/-- The row `d` of the table is the row `r` as the host offered it: its name, its signature, its capability. -/
def RegisteredAs (r : RawDescriptor) (d : Descriptor) : Prop :=
  d.name = r.name ∧ signatureCode d.kind.signature = r.sigCode.toNat ∧
  match r.capability with
  | .reference i => d.kind = .reference i
  | .host body => d.kind = .host d.kind.signature body

/-! ### Which instruction may write the flags -/

/-- COMPARE and host capabilities may write the flags, no other instruction (10_state.md rule R28). -/
def mayWriteFlags : Instr → Bool
  | .compare .. | .ext .. => true
  | .exit .. | .goto .. | .gotoEquals .. | .gotoNotEquals .. | .gotoGreater .. | .gotoLess ..
  | .push .. | .pop .. | .call .. | .ret .. | .illegal .. => false

end Sys2Proof.Machine
end

