-- ==== Sys2Proof/Certificates/Slice0/Obligations.lean ====
section
/-! DEFINITION. The statements for the provers, in the terms of Safety.lean. Each docstring says which rules of spec/ it formalises. Every
statement ranges over the configuration as well: it is a field of the state (log 1). -/

open Sys2Proof Sys2Proof.Machine

/-! ### Encoding -/

/-- 30_encoding.md: the decoder gives back every instruction of every table from its encoding, with every operand, and
leaves the bytes after it. -/
def Obligations.DecodeOfEncode : Prop :=
  ∀ (table : List Descriptor) (i : Instr) (rest : List Byte),
    i.wellFormed table = true → decode table (i.encode ++ rest) = .ok (i, rest)

/-- 30_encoding.md: whatever the decoder answers is an instruction of the table, and the bytes it took are its encoding:
no two byte strings decode to one instruction. -/
def Obligations.DecodeIsEncoding : Prop :=
  ∀ (table : List Descriptor) (bs rest : List Byte) (i : Instr),
    decode table bs = .ok (i, rest) → i.wellFormed table = true ∧ bs = i.encode ++ rest

/-- 30_encoding.md and 95_test_vectors.md: words written out from the spec's formats, one of each family and form. -/
def Obligations.SpecBytesDecode : Prop :=
  decode referenceTable [0x00, 0x2A, 0x00] = .ok (.exit 0 false 42, []) ∧
  decode referenceTable [0x81, 0x34, 0x12] = .ok (.goto 1 true 0x1234, []) ∧
  decode referenceTable [0x86, 0x0C, 0x0E] = .ok (.compare 6 true 0x0C 0x0E, []) ∧
  decode referenceTable [0x07, 0x25] = .ok (.push 7 false 0x25, []) ∧
  decode referenceTable [0x88, 0x00, 0xFF] = .ok (.pop 8 true 0x00, [0xFF]) ∧
  decode referenceTable [0x09, 0x07, 0x00] = .ok (.call 9 false 7, []) ∧
  decode referenceTable [0x0A] = .ok (.ret 10 false, []) ∧
  decode referenceTable [0x8B, 0x01] = .ok (.illegal 11 true, [0x01]) ∧
  decode (referenceTable ++ [⟨"EXT", .host .b3 .unknown⟩]) [0x8B, 0x01, 0x02, 0x03] =
    .ok (.ext 11 true (.b3 1 2 3), [])

/-- R83 and R84: the operand byte count and the instruction length, for every signature, inline flag and INLINE_EXTRA,
and the bytes the decoder takes of a legal instruction are 1 + nb(SIG[idx]). -/
def Obligations.InstructionLengthRule : Prop :=
  (Signature.none.operandBytes = 0 ∧ Signature.word.operandBytes = 2 ∧
    Signature.b1.operandBytes = 1 ∧ Signature.b2.operandBytes = 2 ∧
    Signature.b3.operandBytes = 3) ∧
  (∀ extra sig inl, instrLength extra sig inl =
    1 + sig.operandBytes + (if inl = true then (if extra = .one then 1 else 2) else 0)) ∧
  (∀ (table : List Descriptor) (o : Byte) (bs rest : List Byte) (i : Instr) (d : Descriptor),
    table[(o.extractLsb' 0 7).toNat]? = some d → decode table (o :: bs) = .ok (i, rest) →
    (o :: bs).length = 1 + d.kind.signature.operandBytes + rest.length)

/-- 20_memory.md (Fetch8) and 40_dispatch.md: decoding stops for want of bytes exactly when the opcode byte, or
an operand byte that a legal row's signature asks for, is missing. -/
def Obligations.DecodeStopsExactlyWhenTruncated : Prop :=
  ∀ (table : List Descriptor) (bs : List Byte),
    decode table bs = .error .truncated ↔
      match bs with
      | [] => True
      | o :: operands =>
        ∃ d, table[(o.extractLsb' 0 7).toNat]? = some d ∧
          operands.length < d.kind.signature.operandBytes

/-! ### The cycle -/

/-- 40_dispatch.md, R100 to R103: a step whose bytes at ip decode to an instruction is that instruction's cycle; the
step adds nothing around it. -/
def Obligations.StepRunsTheDecodedInstruction : Prop :=
  ∀ (s : State) (i : Instr) (rest : List Byte), s.CycleReady →
    decode s.cfg.table (s.fetchBytes s.ip.toNat 4) = .ok (i, rest) → step s = exec i s

/-- 40_dispatch.md, 30_encoding.md: from a state where a cycle runs, with a legal opcode byte and all operand bytes
below len, the step is the cycle of the instruction whose row and inline flag are the opcode byte's bits, whose
operand bytes are those that follow in the image, and which is the kind its row says. -/
def Obligations.StepFetchesFromTheImage : Prop :=
  ∀ (s : State) (d : Descriptor), s.CycleReady →
    s.cfg.table[((Memory.read s.mem s.ip.toNat).extractLsb' 0 7).toNat]? = some d →
    s.ip.toNat + 1 + d.kind.signature.operandBytes ≤ s.len →
    ∃ i, step s = exec i s ∧ i.wellFormed s.cfg.table = true ∧
      i.index = (Memory.read s.mem s.ip.toNat).extractLsb' 0 7 ∧
      i.inline = (Memory.read s.mem s.ip.toNat).getLsbD 7 ∧
      i.operands.bytes = (List.range d.kind.signature.operandBytes).map
        (fun k => Memory.read s.mem (s.ip.toNat + 1 + k))

/-- 30_encoding.md (illegal encodings), 40_dispatch.md (validation), 60_exceptions.md (priority): an opcode index not
below TABLE_LEN raises INVALID_OPCODE whatever operand bytes follow or are missing; nothing but fault entry is
written. -/
def Obligations.InvalidOpcodeFaultsFirst : Prop :=
  ∀ (s : State), s.CycleReady →
    s.cfg.table.length ≤ ((Memory.read s.mem s.ip.toNat).extractLsb' 0 7).toNat →
    ∃ t, step s = .next t ∧ FaultTaken s t 1 ∧ DecodeRegsKept s t ∧ FlagsKept s t ∧
      ValueStackKept s t ∧ CallStackKept s t ∧ ImageKept s t ∧ HostSideKept s t ∧
      t.draws = s.draws

/-- 40_dispatch.md (validation), 20_memory.md (Fetch8): a legal opcode byte with an operand byte at len or above raises
TRUNCATED_INSTRUCTION; nothing but fault entry is written. The bytes the inline flag skips do not count. -/
def Obligations.MissingOperandByteFaults : Prop :=
  ∀ (s : State) (d : Descriptor), s.CycleReady →
    s.cfg.table[((Memory.read s.mem s.ip.toNat).extractLsb' 0 7).toNat]? = some d →
    s.len < s.ip.toNat + 1 + d.kind.signature.operandBytes →
    ∃ t, step s = .next t ∧ FaultTaken s t 2 ∧ DecodeRegsKept s t ∧ FlagsKept s t ∧
      ValueStackKept s t ∧ CallStackKept s t ∧ ImageKept s t ∧ HostSideKept s t ∧
      t.draws = s.draws

/-- R93 with R105, R106 and R107: which registers the resolver writes for each signature, with and without the inline
flag, where ip advances to, and that steps 4 and 5 write nothing else. -/
def Obligations.OperandsResolveBySignature : Prop :=
  ∀ (s : State) (idx : BitVec 7) (inl : Bool) (v : Word) (b0 b1 b2 : Byte),
    let inlineCell (n : Nat) : Word := BitVec.ofNat 16 (s.ip.toNat + 1 + n)
    let z (b : Byte) : Word := BitVec.ofNat 16 b.toNat
    OperandSetIs (s.decoded idx inl .none) idx inl 0 0 0 0 ∧
    OperandSetIs (s.decoded idx inl (.word v)) idx inl v 0 0 0 ∧
    OperandSetIs (s.decoded idx inl (.b1 b0)) idx inl 0
      (if inl then inlineCell 1 else z b0) 0 0 ∧
    OperandSetIs (s.decoded idx inl (.b2 b0 b1)) idx inl 0
      (z b0) (if inl then inlineCell 2 else z b1) 0 ∧
    OperandSetIs (s.decoded idx inl (.b3 b0 b1 b2)) idx inl 0
      (z b0) (z b1) (if inl then inlineCell 3 else z b2) ∧
    ∀ ops : Operands,
      (s.decoded idx inl ops).ip = advanced s ops.signature.operandBytes inl ∧
      FlagsKept s (s.decoded idx inl ops) ∧ ValueStackKept s (s.decoded idx inl ops) ∧
      CallStackKept s (s.decoded idx inl ops) ∧ ImageKept s (s.decoded idx inl ops) ∧
      FaultRegsKept s (s.decoded idx inl ops) ∧ HostSideKept s (s.decoded idx inl ops) ∧
      (s.decoded idx inl ops).running = s.running ∧ (s.decoded idx inl ops).exit = s.exit ∧
      (s.decoded idx inl ops).phase = s.phase

/-- 10_state.md, R22's bound: in a state that meets the invariant and where a cycle runs, neither the ip advance nor the
embedded cell's address wraps. -/
def Obligations.IpArithmeticNeverWraps : Prop :=
  ∀ (s : State) (sig : Signature) (inl : Bool), s.Inv → s.CycleReady →
    (advancedIp s.cfg.inlineExtra s.ip sig inl).toNat =
      s.ip.toNat + instrLength s.cfg.inlineExtra sig inl ∧
    (embeddedAddr s.ip sig.operandBytes).toNat = s.ip.toNat + 1 + sig.operandBytes

/-- R110: the end-of-cycle check. running is looked at first; the result of R46 is reported; nothing else is written. -/
def Obligations.EndOfCycleCheck : Prop :=
  ∀ (s : State),
    (s.running = false → endCheck s =
      { s with phase := .halted, resultPort := .halted s.exit :: s.resultPort }) ∧
    (s.running = true → s.len ≤ s.ip.toNat → endCheck s =
      { s with phase := .ended, resultPort := .ended s.exit :: s.resultPort }) ∧
    (s.running = true → s.ip.toNat < s.len → endCheck s = s)

/-! ### The instructions -/

/-- R130 (EXIT). -/
def Obligations.ExitEndsTheRun : Prop :=
  (∀ lo hi rest, decode referenceTable (0x00 :: lo :: hi :: rest) = .ok (.exit 0 false (hi ++ lo), rest) ∧
    decode referenceTable (0x80 :: lo :: hi :: rest) = .ok (.exit 0 true (hi ++ lo), rest)) ∧
  ∀ (s : State) (idx : BitVec 7) (inl : Bool) (x : Word), s.CycleReady →
    ∃ t, exec (.exit idx inl x) s = .next t ∧
      t.exit = x ∧ t.running = false ∧ t.phase = .halted ∧
      t.resultPort = .halted x :: s.resultPort ∧
      t.ip = advanced s 2 inl ∧ OperandSetIs t idx inl x 0 0 0 ∧ CycleEnds s t ∧
      FlagsKept s t ∧ ValueStackKept s t ∧ CallStackKept s t ∧ ImageKept s t ∧
      HostSideKept s t ∧ t.draws = s.draws

/-- R150 (GOTO), with R155: the target is absolute and one outside the program ends the run. -/
def Obligations.GotoSetsIp : Prop :=
  (∀ lo hi rest, decode referenceTable (0x01 :: lo :: hi :: rest) = .ok (.goto 1 false (hi ++ lo), rest) ∧
    decode referenceTable (0x81 :: lo :: hi :: rest) = .ok (.goto 1 true (hi ++ lo), rest)) ∧
  ∀ (s : State) (idx : BitVec 7) (inl : Bool) (v : Word), s.CycleReady →
    ∃ t, exec (.goto idx inl v) s = .next t ∧
      t.ip = v ∧ t.phase = (if s.len ≤ v.toNat then .ended else .running) ∧
      OperandSetIs t idx inl v 0 0 0 ∧ CycleEnds s t ∧ t.running = s.running ∧
      t.exit = s.exit ∧ FlagsKept s t ∧ ValueStackKept s t ∧ CallStackKept s t ∧
      ImageKept s t ∧ HostSideKept s t ∧ t.draws = s.draws

/-- R151 (GOTO_EQUALS). -/
def Obligations.GotoEqualsFollowsEq : Prop :=
  (∀ lo hi rest, decode referenceTable (0x02 :: lo :: hi :: rest) = .ok (.gotoEquals 2 false (hi ++ lo), rest) ∧
    decode referenceTable (0x82 :: lo :: hi :: rest) = .ok (.gotoEquals 2 true (hi ++ lo), rest)) ∧
  ∀ (s : State) (idx : BitVec 7) (inl : Bool) (v : Word), s.CycleReady →
    ∃ t, exec (.gotoEquals idx inl v) s = .next t ∧
      t.ip = (if s.eq = true then v else advanced s 2 inl) ∧
      OperandSetIs t idx inl v 0 0 0 ∧ CycleEnds s t ∧ t.running = s.running ∧
      t.exit = s.exit ∧ FlagsKept s t ∧ ValueStackKept s t ∧ CallStackKept s t ∧
      ImageKept s t ∧ HostSideKept s t ∧ t.draws = s.draws

/-- R152 (GOTO_NOT_EQUALS): it reads ne, not the complement of eq. -/
def Obligations.GotoNotEqualsFollowsNe : Prop :=
  (∀ lo hi rest, decode referenceTable (0x03 :: lo :: hi :: rest) = .ok (.gotoNotEquals 3 false (hi ++ lo), rest) ∧
    decode referenceTable (0x83 :: lo :: hi :: rest) = .ok (.gotoNotEquals 3 true (hi ++ lo), rest)) ∧
  ∀ (s : State) (idx : BitVec 7) (inl : Bool) (v : Word), s.CycleReady →
    ∃ t, exec (.gotoNotEquals idx inl v) s = .next t ∧
      t.ip = (if s.ne = true then v else advanced s 2 inl) ∧
      OperandSetIs t idx inl v 0 0 0 ∧ CycleEnds s t ∧ t.running = s.running ∧
      t.exit = s.exit ∧ FlagsKept s t ∧ ValueStackKept s t ∧ CallStackKept s t ∧
      ImageKept s t ∧ HostSideKept s t ∧ t.draws = s.draws

/-- R153 (GOTO_GREATER). -/
def Obligations.GotoGreaterFollowsGt : Prop :=
  (∀ lo hi rest, decode referenceTable (0x04 :: lo :: hi :: rest) = .ok (.gotoGreater 4 false (hi ++ lo), rest) ∧
    decode referenceTable (0x84 :: lo :: hi :: rest) = .ok (.gotoGreater 4 true (hi ++ lo), rest)) ∧
  ∀ (s : State) (idx : BitVec 7) (inl : Bool) (v : Word), s.CycleReady →
    ∃ t, exec (.gotoGreater idx inl v) s = .next t ∧
      t.ip = (if s.gt = true then v else advanced s 2 inl) ∧
      OperandSetIs t idx inl v 0 0 0 ∧ CycleEnds s t ∧ t.running = s.running ∧
      t.exit = s.exit ∧ FlagsKept s t ∧ ValueStackKept s t ∧ CallStackKept s t ∧
      ImageKept s t ∧ HostSideKept s t ∧ t.draws = s.draws

/-- R154 (GOTO_LESS). -/
def Obligations.GotoLessFollowsLt : Prop :=
  (∀ lo hi rest, decode referenceTable (0x05 :: lo :: hi :: rest) = .ok (.gotoLess 5 false (hi ++ lo), rest) ∧
    decode referenceTable (0x85 :: lo :: hi :: rest) = .ok (.gotoLess 5 true (hi ++ lo), rest)) ∧
  ∀ (s : State) (idx : BitVec 7) (inl : Bool) (v : Word), s.CycleReady →
    ∃ t, exec (.gotoLess idx inl v) s = .next t ∧
      t.ip = (if s.lt = true then v else advanced s 2 inl) ∧
      OperandSetIs t idx inl v 0 0 0 ∧ CycleEnds s t ∧ t.running = s.running ∧
      t.exit = s.exit ∧ FlagsKept s t ∧ ValueStackKept s t ∧ CallStackKept s t ∧
      ImageKept s t ∧ HostSideKept s t ∧ t.draws = s.draws

/-- 42_compare.md (COMPARE): with both cells in range the flags of the signed comparison; with either out of range
CELL_OUT_OF_RANGE and the flags unchanged (the spec marks this last clause as its own inference). -/
def Obligations.CompareSetsTheFlags : Prop :=
  (∀ s0 s1 rest, decode referenceTable (0x06 :: s0 :: s1 :: rest) = .ok (.compare 6 false s0 s1, rest) ∧
    decode referenceTable (0x86 :: s0 :: s1 :: rest) = .ok (.compare 6 true s0 s1, rest)) ∧
  ∀ (s : State) (idx : BitVec 7) (inl : Bool) (s0 s1 : Byte), s.CycleReady →
    let l : Word := slotAddr s0
    let r : Word := lastAddr s.ip inl 2 s1
    let a : Int := (Memory.read s.mem (l.toNat + 1) ++ Memory.read s.mem l.toNat).toInt
    let b : Int := (Memory.read s.mem (r.toNat + 1) ++ Memory.read s.mem r.toNat).toInt
    (l.toNat + 2 ≤ s.len → r.toNat + 2 ≤ s.len →
      ∃ t, exec (.compare idx inl s0 s1) s = .next t ∧
        t.eq = decide (a = b) ∧ t.ne = decide (a ≠ b) ∧ t.gt = decide (b < a) ∧
        t.lt = decide (a < b) ∧
        t.ip = advanced s 2 inl ∧ OperandSetIs t idx inl 0 l r 0 ∧ CycleEnds s t ∧
        t.running = s.running ∧ t.exit = s.exit ∧ ValueStackKept s t ∧ CallStackKept s t ∧
        ImageKept s t ∧ HostSideKept s t ∧ t.draws = s.draws) ∧
    ((s.len < l.toNat + 2 ∨ s.len < r.toNat + 2) →
      ∃ t, exec (.compare idx inl s0 s1) s = .next t ∧
        FaultAfterDecode s t idx inl (.b2 s0 s1) 3)

/-- 42_compare.md (the spec marks the table as its own inference): the flag outcomes of a COMPARE for the three
relations of its cells, read as signed numbers. -/
def Obligations.CompareFlagOutcomes : Prop :=
  ∀ (s t : State) (idx : BitVec 7) (inl : Bool) (s0 s1 : Byte), s.CycleReady →
    exec (.compare idx inl s0 s1) s = .next t → t.phase ≠ .faulted →
    let a : Int := (s.cellAt (slotAddr s0)).toInt
    let b : Int := (s.cellAt (lastAddr s.ip inl 2 s1)).toInt
    (a = b → (t.eq, t.ne, t.gt, t.lt) = (true, false, false, false)) ∧
    (b < a → (t.eq, t.ne, t.gt, t.lt) = (false, true, true, false)) ∧
    (a < b → (t.eq, t.ne, t.gt, t.lt) = (false, true, false, true)) ∧
    t.ne = !t.eq ∧
    ((t.eq = true ∧ t.gt = false ∧ t.lt = false) ∨ (t.eq = false ∧ t.gt = true ∧ t.lt = false) ∨
      (t.eq = false ∧ t.gt = false ∧ t.lt = true))

/-- R170 (PUSH): the cell's value goes on the value stack; the cell is checked first, then the room. -/
def Obligations.PushPushesTheCell : Prop :=
  (∀ s0 rest, decode referenceTable (0x07 :: s0 :: rest) = .ok (.push 7 false s0, rest) ∧
    decode referenceTable (0x87 :: s0 :: rest) = .ok (.push 7 true s0, rest)) ∧
  ∀ (s : State) (idx : BitVec 7) (inl : Bool) (s0 : Byte), s.CycleReady →
    let a : Word := lastAddr s.ip inl 1 s0
    (a.toNat + 2 ≤ s.len → s.vsp < s.cfg.vstackCap →
      ∃ t, exec (.push idx inl s0) s = .next t ∧
        t.vsp = s.vsp + 1 ∧
        Memory.read t.vstack s.vsp =
          Memory.read s.mem (a.toNat + 1) ++ Memory.read s.mem a.toNat ∧
        (∀ n, n ≠ s.vsp → Memory.read t.vstack n = Memory.read s.vstack n) ∧
        t.ip = advanced s 1 inl ∧ OperandSetIs t idx inl 0 a 0 0 ∧ CycleEnds s t ∧
        t.running = s.running ∧ t.exit = s.exit ∧ FlagsKept s t ∧ CallStackKept s t ∧
        ImageKept s t ∧ HostSideKept s t ∧ t.draws = s.draws) ∧
    (s.len < a.toNat + 2 →
      ∃ t, exec (.push idx inl s0) s = .next t ∧ FaultAfterDecode s t idx inl (.b1 s0) 3) ∧
    (a.toNat + 2 ≤ s.len → s.cfg.vstackCap ≤ s.vsp →
      ∃ t, exec (.push idx inl s0) s = .next t ∧ FaultAfterDecode s t idx inl (.b1 s0) 4)

/-- R171 (POP): the top of the value stack goes into the cell, low byte first; the cell is checked first, then the
stack. -/
def Obligations.PopWritesTheCell : Prop :=
  (∀ s0 rest, decode referenceTable (0x08 :: s0 :: rest) = .ok (.pop 8 false s0, rest) ∧
    decode referenceTable (0x88 :: s0 :: rest) = .ok (.pop 8 true s0, rest)) ∧
  ∀ (s : State) (idx : BitVec 7) (inl : Bool) (s0 : Byte), s.CycleReady →
    let a : Word := lastAddr s.ip inl 1 s0
    let v : Word := Memory.read s.vstack (s.vsp - 1)
    (a.toNat + 2 ≤ s.len → 0 < s.vsp →
      ∃ t, exec (.pop idx inl s0) s = .next t ∧
        t.vsp = s.vsp - 1 ∧
        (∀ n, n < t.vsp → Memory.read t.vstack n = Memory.read s.vstack n) ∧
        Memory.read t.mem a.toNat = v.extractLsb' 0 8 ∧
        Memory.read t.mem (a.toNat + 1) = v.extractLsb' 8 8 ∧ ImageKeptOutside a s t ∧
        t.ip = advanced s 1 inl ∧ OperandSetIs t idx inl 0 a 0 0 ∧ CycleEnds s t ∧
        t.running = s.running ∧ t.exit = s.exit ∧ FlagsKept s t ∧ CallStackKept s t ∧
        HostSideKept s t ∧ t.draws = s.draws) ∧
    (s.len < a.toNat + 2 →
      ∃ t, exec (.pop idx inl s0) s = .next t ∧ FaultAfterDecode s t idx inl (.b1 s0) 3) ∧
    (a.toNat + 2 ≤ s.len → s.vsp = 0 →
      ∃ t, exec (.pop idx inl s0) s = .next t ∧ FaultAfterDecode s t idx inl (.b1 s0) 5)

/-- R180 (CALL), for both values of CALL_PUSH: the advanced ip, inline bytes counted, or the target goes on the call
stack, and ip is the target; on a full stack CSTACK_OVERFLOW, nothing pushed, ip at the advance. -/
def Obligations.CallPushesAndJumps : Prop :=
  (∀ lo hi rest, decode referenceTable (0x09 :: lo :: hi :: rest) = .ok (.call 9 false (hi ++ lo), rest) ∧
    decode referenceTable (0x89 :: lo :: hi :: rest) = .ok (.call 9 true (hi ++ lo), rest)) ∧
  ∀ (s : State) (idx : BitVec 7) (inl : Bool) (v : Word), s.CycleReady →
    (s.csp < s.cfg.cstackCap →
      ∃ t, exec (.call idx inl v) s = .next t ∧
        t.csp = s.csp + 1 ∧
        Memory.read t.cstack s.csp =
          (if s.cfg.callPush = .returnAddr then advanced s 2 inl else v) ∧
        (∀ n, n ≠ s.csp → Memory.read t.cstack n = Memory.read s.cstack n) ∧
        t.ip = v ∧ t.phase = (if s.len ≤ v.toNat then .ended else .running) ∧
        OperandSetIs t idx inl v 0 0 0 ∧ CycleEnds s t ∧ t.running = s.running ∧
        t.exit = s.exit ∧ FlagsKept s t ∧ ValueStackKept s t ∧ ImageKept s t ∧
        HostSideKept s t ∧ t.draws = s.draws) ∧
    (s.cfg.cstackCap ≤ s.csp →
      ∃ t, exec (.call idx inl v) s = .next t ∧ FaultAfterDecode s t idx inl (.word v) 6)

/-- R181 (RETURN): ip is the top of the call stack; on an empty stack CSTACK_UNDERFLOW, ip at the advance. -/
def Obligations.ReturnPopsIntoIp : Prop :=
  (∀ rest, decode referenceTable (0x0A :: rest) = .ok (.ret 10 false, rest) ∧
    decode referenceTable (0x8A :: rest) = .ok (.ret 10 true, rest)) ∧
  ∀ (s : State) (idx : BitVec 7) (inl : Bool), s.CycleReady →
    (0 < s.csp →
      ∃ t, exec (.ret idx inl) s = .next t ∧
        t.ip = Memory.read s.cstack (s.csp - 1) ∧ t.csp = s.csp - 1 ∧
        (∀ n, n < t.csp → Memory.read t.cstack n = Memory.read s.cstack n) ∧
        t.phase = (if s.len ≤ t.ip.toNat then .ended else .running) ∧
        OperandSetIs t idx inl 0 0 0 0 ∧ CycleEnds s t ∧ t.running = s.running ∧
        t.exit = s.exit ∧ FlagsKept s t ∧ ValueStackKept s t ∧ ImageKept s t ∧
        HostSideKept s t ∧ t.draws = s.draws) ∧
    (s.csp = 0 →
      ∃ t, exec (.ret idx inl) s = .next t ∧ FaultAfterDecode s t idx inl .none 7)

/-- 30_encoding.md (illegal encodings): the illegal instruction takes INVALID_OPCODE and writes nothing else, in every
state. -/
def Obligations.IllegalTakesInvalidOpcode : Prop :=
  ∀ (s : State) (idx : BitVec 7) (inl : Bool),
    ∃ t, exec (.illegal idx inl) s = .next t ∧ FaultTaken s t 1 ∧ DecodeRegsKept s t ∧
      FlagsKept s t ∧ ValueStackKept s t ∧ CallStackKept s t ∧ ImageKept s t ∧
      HostSideKept s t ∧ t.draws = s.draws

/-- 46_capability.md (invocation, faults, modelling): EXT(k) runs once what the configuration gives for its row, on the
state after step 5. If that cannot hang, it answers a next state, in every state. If it returns, the cycle ends as any
other; if an accessor raises, the writes before it stay and the fault is taken; if it never returns there is no next
state (row U10 of 93_implementation_defined.md; the named stop is log 16). Where the configuration does not give it,
its actions are the model's free value on what it sees (log 15), and one draw is counted. -/
def Obligations.HostCapabilityRunsItsActions : Prop :=
  ∀ (s : State) (idx : BitVec 7) (inl : Bool) (ops : Operands),
    let d : State := s.decoded idx inl ops
    let body : CapBody := bodyAt s.cfg.table idx
    (mayHang body = false → ∃ t, exec (.ext idx inl ops) s = .next t) ∧
    (match runBody idx body [] d with
      | none => exec (.ext idx inl ops) s = .fault .capabilityHang
      | some (.returned u) =>
        ∃ t, exec (.ext idx inl ops) s = .next t ∧ CycleEnds s t ∧
          t = { u with phase := t.phase, resultPort := t.resultPort, tracePort := t.tracePort }
      | some (.raised k u) =>
        ∃ t, exec (.ext idx inl ops) s = .next t ∧
          t.phase = .faulted ∧ t.faultKind = k.code ∧ t.faultIp = s.ip ∧ t.running = false ∧
          t.resultPort = .faulted k.code s.ip :: s.resultPort ∧ t.tracePort = s.tracePort ∧
          t = { u with
            phase := t.phase, faultKind := t.faultKind, faultIp := t.faultIp,
            running := t.running, resultPort := t.resultPort }) ∧
    (body = .unknown →
      runBody idx body [] d =
        some (runActions d.countDraw (Config.hostCapability idx (capView d) s.draws)) ∧
      ∃ t, exec (.ext idx inl ops) s = .next t ∧ t.draws = s.draws + 1)

/-- 46_capability.md (what it must not do, faults): whatever an EXT(k) does, it leaves len, the configuration, the
host's side and every byte outside the loaded program alone, keeps the latches cur_idx and cur_inl, and faults only
with the codes of the checked accessors. -/
def Obligations.HostCapabilityStaysInItsFrame : Prop :=
  ∀ (s t : State) (idx : BitVec 7) (inl : Bool) (ops : Operands),
    exec (.ext idx inl ops) s = .next t →
    t.len = s.len ∧ (∀ a, s.len ≤ a → Memory.read t.mem a = Memory.read s.mem a) ∧
    HostSideKept s t ∧ t.curIdx = idx ∧ t.curInl = inl ∧
    ((t.faultKind = s.faultKind ∧ t.faultIp = s.faultIp ∧
        (t.phase = .halted ∨ t.phase = .ended ∨ t.phase = s.phase)) ∨
      (t.phase = .faulted ∧ t.faultIp = s.ip ∧ t.running = false ∧
        t.faultKind ∈ [3, 4, 5, 6, 7]))

/-- 46_capability.md (what it may write, modelling): one action of a capability, in the terms of the registers, the
image and the stacks; that every list of actions can be given to a row; and what the other parts of a given capability
do (they are the model's form of the relation, log 29). -/
def Obligations.HostCapabilityActionEffects : Prop :=
  (∀ (k : BitVec 7) (s : State) (results : List Word) (as : List CapAction),
    runBody k (bodyOfActions as) results s = some (runActions s as)) ∧
  (∀ (k : BitVec 7) (s : State) (results : List Word) (c : CapExpr) (x y : CapBody),
    runBody k .hang results s = none ∧
    runBody k (.branch c x y) results s =
      runBody k (if evalCapExpr s results c = 0 then y else x) results s ∧
    runBody k (.choose x y) results s =
      runBody k (if Config.freeChoice s.draws = true then x else y) results s.countDraw ∧
    runBody k (.input x) results s =
      runBody k x (Config.freeInput s.draws :: results) s.countDraw) ∧
  ∀ (s : State) (v a : Word) (b : Bool),
    capAction s (.setIp v) = .ok { s with ip := v } ∧
    capAction s (.setImm v) = .ok { s with imm := v } ∧
    capAction s (.setAddr 0 v) = .ok { s with addr0 := v } ∧
    capAction s (.setAddr 1 v) = .ok { s with addr1 := v } ∧
    capAction s (.setAddr 2 v) = .ok { s with addr2 := v } ∧
    capAction s (.setEq b) = .ok { s with eq := b } ∧
    capAction s (.setNe b) = .ok { s with ne := b } ∧
    capAction s (.setGt b) = .ok { s with gt := b } ∧
    capAction s (.setLt b) = .ok { s with lt := b } ∧
    capAction s (.setRunning b) = .ok { s with running := b } ∧
    capAction s (.setExit v) = .ok { s with exit := v } ∧
    capAction s (.writeCell a v) = cellWrite s a v ∧
    capAction s (.readCell a) =
      (if a.toNat + 2 ≤ s.len then .ok s else .error .cellOutOfRange) ∧
    capAction s (.pushValue v) = vPush s v ∧ capAction s (.pushCall v) = cPush s v ∧
    (∀ w t, vPop s = .ok (w, t) → capAction s .popValue = .ok t) ∧
    (∀ w t, cPop s = .ok (w, t) → capAction s .popCall = .ok t) ∧
    (s.vsp = 0 → capAction s .popValue = .error .vstackUnderflow) ∧
    (s.csp = 0 → capAction s .popCall = .error .cstackUnderflow)

/-- 46_capability.md (faults): when an action raises, the writes of the actions before it stay and those after it do not
happen, for a list of actions and for a given capability's call. A call that does not raise hands the capability what
the accessor answered. -/
def Obligations.HostCapabilityPartialWritesStay : Prop :=
  (∀ (s u : State) (done rest : List CapAction) (a : CapAction) (k : FaultKind),
    runActions s done = .returned u → capAction u a = .error k →
    runActions s (done ++ a :: rest) = .raised k u) ∧
  ∀ (idx : BitVec 7) (s : State) (results : List Word) (c : CapCall CapExpr CapExpr)
    (next : CapBody),
    (∀ k, capAction s (groundCall s results c) = .error k →
      runBody idx (.call c next) results s = some (.raised k s)) ∧
    (∀ t, capAction s (groundCall s results c) = .ok t →
      runBody idx (.call c next) results s =
        runBody idx next (capAnswers s (groundCall s results c) ++ results) t) ∧
    (∀ a v, cellRead s a = .ok v → capAnswers s (.readCell a) = [v]) ∧
    (∀ v t, vPop s = .ok (v, t) → capAnswers s .popValue = [v]) ∧
    (∀ v t, cPop s = .ok (v, t) → capAnswers s .popCall = [v])

/-! ### Frames -/

/-- 43_branch.md, 41_exit.md: what the five jumps and EXIT leave alone. A jump leaves running and exit too. -/
def Obligations.JumpAndExitFrame : Prop :=
  ∀ (s t : State) (idx : BitVec 7) (inl : Bool) (v : Word) (i : Instr),
    i ∈ [.exit idx inl v, .goto idx inl v, .gotoEquals idx inl v, .gotoNotEquals idx inl v,
      .gotoGreater idx inl v, .gotoLess idx inl v] →
    exec i s = .next t →
    FlagsKept s t ∧ ValueStackKept s t ∧ CallStackKept s t ∧ FaultRegsKept s t ∧
      ImageKept s t ∧ HostSideKept s t ∧ t.draws = s.draws ∧
      (i ≠ .exit idx inl v → t.running = s.running ∧ t.exit = s.exit)

/-- 42_compare.md: what COMPARE leaves alone; the flags too when it faults. -/
def Obligations.CompareFrame : Prop :=
  ∀ (s t : State) (idx : BitVec 7) (inl : Bool) (s0 s1 : Byte),
    exec (.compare idx inl s0 s1) s = .next t →
    t.exit = s.exit ∧ ValueStackKept s t ∧ CallStackKept s t ∧ ImageKept s t ∧
      HostSideKept s t ∧ t.draws = s.draws ∧ RunRegsKeptUnlessFaulted s t ∧
      (s.phase ≠ .faulted → t.phase = .faulted → FlagsKept s t)

/-- 44_stack.md: what PUSH leaves alone; the value stack below the pushed entry, and all of it when it faults. -/
def Obligations.PushFrame : Prop :=
  ∀ (s t : State) (idx : BitVec 7) (inl : Bool) (s0 : Byte),
    exec (.push idx inl s0) s = .next t →
    t.exit = s.exit ∧ FlagsKept s t ∧ CallStackKept s t ∧ ImageKept s t ∧ HostSideKept s t ∧
      t.draws = s.draws ∧ RunRegsKeptUnlessFaulted s t ∧
      (∀ n, n ≠ s.vsp → Memory.read t.vstack n = Memory.read s.vstack n) ∧
      (s.phase ≠ .faulted → t.phase = .faulted → ValueStackKept s t)

/-- 44_stack.md: what POP leaves alone: every byte but the two of the cell it addresses, and every byte and the stack
when it faults. That the popped entry stays in the storage is the model's choice (log 6); the entries below it are the
live ones. -/
def Obligations.PopFrame : Prop :=
  ∀ (s t : State) (idx : BitVec 7) (inl : Bool) (s0 : Byte),
    exec (.pop idx inl s0) s = .next t →
    t.exit = s.exit ∧ FlagsKept s t ∧ CallStackKept s t ∧ HostSideKept s t ∧
      t.draws = s.draws ∧ RunRegsKeptUnlessFaulted s t ∧
      ImageKeptOutside (lastAddr s.ip inl 1 s0) s t ∧
      (∀ n, Memory.read t.vstack n = Memory.read s.vstack n) ∧
      (s.phase ≠ .faulted → t.phase = .faulted → ValueStackKept s t ∧ ImageKept s t)

/-- 45_call.md: what CALL and RETURN leave alone; the call stack but for the entry CALL pushes, and all of it when they
fault. That the entry RETURN pops stays in the storage is the model's choice (log 6); the entries below it are the live
ones. -/
def Obligations.CallReturnFrame : Prop :=
  ∀ (s t : State) (idx : BitVec 7) (inl : Bool) (v : Word) (i : Instr),
    i ∈ [.call idx inl v, .ret idx inl] → exec i s = .next t →
    t.exit = s.exit ∧ FlagsKept s t ∧ ValueStackKept s t ∧ ImageKept s t ∧ HostSideKept s t ∧
      t.draws = s.draws ∧ RunRegsKeptUnlessFaulted s t ∧
      (∀ n, n ≠ s.csp ∨ i = .ret idx inl → Memory.read t.cstack n = Memory.read s.cstack n) ∧
      (s.phase ≠ .faulted → t.phase = .faulted → CallStackKept s t)

/-- 10_state.md (flag store): no instruction but COMPARE and a host capability writes a flag, and no fault does. -/
def Obligations.FlagsPersist : Prop :=
  ∀ (s t : State) (i : Instr), exec i s = .next t →
    (mayWriteFlags i = false → FlagsKept s t) ∧
    (∀ idx inl s0 s1, i = .compare idx inl s0 s1 → s.phase ≠ .faulted → t.phase = .faulted →
      FlagsKept s t)

/-- 00_scope.md and 20_memory.md: no instruction changes the configuration, the table in it, len, or what the host has
waiting. -/
def Obligations.NoInstructionChangesTheTable : Prop :=
  ∀ (s t : State) (i : Instr), exec i s = .next t →
    t.cfg = s.cfg ∧ t.len = s.len ∧ t.pending = s.pending ∧ t.hostReplies = s.hostReplies

/-- 20_memory.md (the reachable part): no instruction writes a byte at len or above. -/
def Obligations.NoInstructionWritesPastLen : Prop :=
  ∀ (s t : State) (i : Instr) (a : Nat), exec i s = .next t → s.len ≤ a →
    Memory.read t.mem a = Memory.read s.mem a

/-! ### The whole machine -/

/-- 70_reset_and_hazards.md (reset): the power-on values the spec gives (not ip, the image and the stack storage,
which are logs 4, 5 and 6). -/
def Obligations.PowerOnValues : Prop :=
  State.reset.len = 0 ∧ State.reset.phase = .idle ∧ State.reset.running = true ∧
  State.reset.exit = 0 ∧
  (State.reset.eq, State.reset.ne, State.reset.gt, State.reset.lt) =
    (false, false, false, false) ∧
  OperandSetIs State.reset 0 false 0 0 0 0 ∧ State.reset.vsp = 0 ∧ State.reset.csp = 0 ∧
  State.reset.faultKind = 0 ∧ State.reset.faultIp = 0

/-- The power-on state meets the invariant. It rests on the model's choices of logs 2 to 6. -/
def Obligations.PowerOnMeetsTheInvariant : Prop := State.reset.Inv

/-- 10_state.md, 20_memory.md, 40_dispatch.md: every step, a cycle or a host transaction, keeps the invariant: legal
parameters, the image and the stacks in canonical form inside their capacities, R31, and the loop's guard. -/
def Obligations.EveryStepKeepsTheInvariant : Prop :=
  ∀ (s t : State), s.Inv → step s = .next t → t.Inv

/-- 10_state.md (run state; the spec marks this invariant as its own inference): it holds at power-on, and every step
keeps it from a state where the loop's guard holds. -/
def Obligations.RunStateAgreesWithPhase : Prop :=
  State.reset.RunStateOk ∧ ∀ (s t : State), s.RunStateOk → (s.phase = .running → s.CycleReady) →
    step s = .next t → t.RunStateOk

/-- 60_exceptions.md, 40_dispatch.md and 46_capability.md (termination): from a state that meets the invariant, in phase
RUNNING, the step answers a next state (the block's faults are next states), unless a host capability of the table
may hang; and then the hang is the only other thing it can answer. -/
def Obligations.CyclesNeverStop : Prop :=
  ∀ (s : State), s.Inv → s.phase = .running →
    ((∀ idx : BitVec 7, mayHang (bodyAt s.cfg.table idx) = false) → ∃ t, step s = .next t) ∧
    ((∃ t, step s = .next t) ∨
      ∃ (i : Instr) (rest : List Byte) (idx : BitVec 7) (inl : Bool) (ops : Operands),
        decode s.cfg.table (s.fetchBytes s.ip.toNat 4) = .ok (i, rest) ∧
        i = .ext idx inl ops ∧
        runBody idx (bodyAt s.cfg.table idx) [] (s.decoded idx inl ops) = none ∧
        step s = .fault .capabilityHang)

/-- 10_state.md (run state): the transitions of the phase. -/
def Obligations.PhaseTransitions : Prop :=
  ∀ (s t : State), (s.phase = .running → s.CycleReady) → step s = .next t →
    (s.phase = .running →
      (t.phase = .halted ∧ t.running = false) ∨
      (t.phase = .ended ∧ t.running = true ∧ t.len ≤ t.ip.toNat) ∨
      (t.phase = .faulted ∧ t.running = false) ∨
      (t.phase = .running ∧ t.running = true ∧ t.ip.toNat < t.len)) ∧
    (s.phase ≠ .running →
      t.phase = s.phase ∨
      (s.pending.head? = some .run ∧ t.running = true ∧
        (t.phase = .running ∧ t.ip.toNat < t.len ∨ t.phase = .ended ∧ t.len ≤ t.ip.toNat)))

/-- 10_state.md (the result port): a cycle that leaves phase RUNNING reports exactly one result, of the phase it
enters, and one that does not reports none. -/
def Obligations.ResultReportedWhenARunEnds : Prop :=
  ∀ (s t : State), s.CycleReady → step s = .next t →
    t.resultPort = match t.phase with
      | .halted => .halted t.exit :: s.resultPort
      | .ended => .ended t.exit :: s.resultPort
      | .faulted => .faulted t.faultKind t.faultIp :: s.resultPort
      | _ => s.resultPort

/-- 40_dispatch.md (step 7): one trace event for each executed instruction when TRACE_EN is set, with the latches and
the state after the capability; none for a cycle that faults, and none when it is clear. -/
def Obligations.TraceOncePerExecutedInstruction : Prop :=
  ∀ (s t : State), s.CycleReady → step s = .next t →
    t.tracePort =
      (if s.cfg.traceEn = true ∧ t.phase ≠ .faulted then
        ⟨t.curIdx, t.curInl, { t.toArch with phase := .running }⟩ :: s.tracePort
      else s.tracePort)

/-- 60_exceptions.md (fault entry) and the codes of its table. -/
def Obligations.FaultEntryWrites : Prop :=
  (∀ (k : FaultKind) (ip0 : Word) (s : State), raiseFault k ip0 s =
    { s with
      faultKind := k.code, faultIp := ip0, running := false, phase := .faulted,
      resultPort := .faulted k.code ip0 :: s.resultPort }) ∧
  FaultKind.invalidOpcode.code = 1 ∧ FaultKind.truncatedInstruction.code = 2 ∧
  FaultKind.cellOutOfRange.code = 3 ∧ FaultKind.vstackOverflow.code = 4 ∧
  FaultKind.vstackUnderflow.code = 5 ∧ FaultKind.cstackOverflow.code = 6 ∧
  FaultKind.cstackUnderflow.code = 7

/-- 60_exceptions.md (precise faults): a cycle that ends in FAULTED has recorded ip0 and a fault code, has cleared
running, and has emitted no trace event. -/
def Obligations.FaultsRecordIpZero : Prop :=
  ∀ (s t : State), s.CycleReady → step s = .next t → t.phase = .faulted →
    t.faultIp = s.ip ∧ t.faultKind ≠ 0 ∧ t.running = false ∧ t.len = s.len ∧
    t.tracePort = s.tracePort

/-- 20_memory.md (the reachable part): a step does not depend on the bytes at len and above. Two states that differ only
there step alike and differ only there again. The trace snapshot carries the whole image, so no observer is
registered. -/
def Obligations.BytesPastLenAreNotObserved : Prop :=
  ∀ (s t : State) (m : List Host.Cell), s.phase = .running → s.cfg.traceEn = false →
    (∀ a, a < s.len → Memory.read m a = Memory.read s.mem a) →
    step s = .next t →
    ∃ m', step (s.setMem m) = .next (t.setMem m') ∧
      ∀ a, a < s.len → Memory.read m' a = Memory.read t.mem a

/-- 40_dispatch.md (trace) and 60_exceptions.md (debug): tracing is only observed. With the observer switched either
way, and whatever the trace port holds, a cycle leaves the same state but for the two. -/
def Obligations.TraceIsOnlyObserved : Prop :=
  ∀ (s t : State) (b : Bool) (ev : List TraceEvent), s.phase = .running → step s = .next t →
    ∃ ev', step { s with cfg := { s.cfg with traceEn := b }, tracePort := ev } =
      .next { t with cfg := { t.cfg with traceEn := b }, tracePort := ev' }

/-! ### Memory and stacks -/

/-- R66 and R67: the checked cell accessors: in range exactly when a + 2 <= len; little-endian; a failing write writes
nothing, since it answers no state. -/
def Obligations.CellAccessorsAreChecked : Prop :=
  ∀ (s : State) (a v : Word),
    cellRead s a = (if s.len < a.toNat + 2 then .error .cellOutOfRange
      else .ok (Memory.read s.mem (a.toNat + 1) ++ Memory.read s.mem a.toNat)) ∧
    (s.len < a.toNat + 2 → cellWrite s a v = .error .cellOutOfRange) ∧
    (a.toNat + 2 ≤ s.len → ∃ m, cellWrite s a v = .ok { s with mem := m } ∧
      Memory.read m a.toNat = v.extractLsb' 0 8 ∧
      Memory.read m (a.toNat + 1) = v.extractLsb' 8 8 ∧
      ∀ b, b ≠ a.toNat → b ≠ a.toNat + 1 → Memory.read m b = Memory.read s.mem b)

/-- 20_memory.md (alignment, coherence): a cell reads back what was written, a cell one byte higher sees the written
high byte as its low byte, and a cell that shares no byte is as before. -/
def Obligations.CellReadsWhatWasWritten : Prop :=
  ∀ (s t : State) (a b v : Word), cellWrite s a v = .ok t →
    cellRead t a = .ok v ∧
    (b.toNat = a.toNat + 1 → b.toNat + 2 ≤ s.len →
      cellRead t b = .ok (Memory.read s.mem (b.toNat + 1) ++ v.extractLsb' 8 8)) ∧
    ((b.toNat + 2 ≤ a.toNat ∨ a.toNat + 2 ≤ b.toNat) → cellRead t b = cellRead s b)

/-- 10_state.md (stacks; the spec marks the round trip as its own inference): for every sequence of pushes and pops,
on either stack, the values popped, the contents left and the first fault are those of a plain list of the stack's
capacity, top first. -/
def Obligations.StacksAreLastInFirstOut : Prop :=
  ∀ (s : State) (ops : List StackOp),
    (valueStackRun s ops).map (fun p => (p.1, liveEntries p.2.vstack p.2.vsp)) =
      listRun s.cfg.vstackCap .vstackOverflow .vstackUnderflow
        (liveEntries s.vstack s.vsp) ops ∧
    (callStackRun s ops).map (fun p => (p.1, liveEntries p.2.cstack p.2.csp)) =
      listRun s.cfg.cstackCap .cstackOverflow .cstackUnderflow
        (liveEntries s.cstack s.csp) ops

/-- 44_stack.md (the spec marks this as its own inference): PUSH a then POP b copies cell a to cell b, changes no
other byte and leaves vsp as it was. -/
def Obligations.PushThenPopCopiesACell : Prop :=
  ∀ (s t u : State) (i j : BitVec 7) (a b : Byte), s.CycleReady →
    a.toNat + 2 ≤ s.len → b.toNat + 2 ≤ s.len → s.vsp < s.cfg.vstackCap →
    exec (.push i false a) s = .next t → exec (.pop j false b) t = .next u →
    u.cellAt (slotAddr b) = s.cellAt (slotAddr a) ∧ u.vsp = s.vsp ∧
      ImageKeptOutside (slotAddr b) s u

/-- 45_call.md: with CALL_PUSH = RETURN_ADDR a CALL and a later RETURN, at the depth and with the live entries the CALL
left (whatever was pushed and popped above them), resume after the CALL, its inline bytes skipped; with TARGET they go
back to the callee's entry. -/
def Obligations.CallThenReturnResumes : Prop :=
  ∀ (s t u w : State) (i j : BitVec 7) (inl inl' : Bool) (v : Word), s.CycleReady →
    s.csp < s.cfg.cstackCap → exec (.call i inl v) s = .next t →
    u.csp = t.csp → (∀ n, n < t.csp → Memory.read u.cstack n = Memory.read t.cstack n) →
    exec (.ret j inl') u = .next w →
    w.csp = s.csp ∧
    w.ip = (if s.cfg.callPush = .returnAddr then advanced s 2 inl else v)

/-- 70_reset_and_hazards.md (inline-cell overlap): with INLINE_EXTRA = 1 an inline POP writes the byte at the next ip:
it becomes the high byte of the popped value. -/
def Obligations.InlinePopRewritesTheNextOpcode : Prop :=
  ∀ (s t : State) (idx : BitVec 7) (s0 : Byte), s.Inv → s.CycleReady →
    s.cfg.inlineExtra = .one → s.ip.toNat + 4 ≤ s.len → 0 < s.vsp →
    exec (.pop idx true s0) s = .next t →
    t.ip.toNat = s.ip.toNat + 3 ∧
    Memory.read t.mem t.ip.toNat = (Memory.read s.vstack (s.vsp - 1)).extractLsb' 8 8

/-! ### The host's transactions -/

/-- R244: a LOAD that fits writes len and the supplied bytes of mem[0..n), and no other register of the state of R20.
The bytes at n and above are left open, as 70_reset_and_hazards.md leaves them, and so is a byte below n that the host
did not supply. -/
def Obligations.LoadWritesOnlyTheImage : Prop :=
  ∀ (s : State) (bytes : List Byte) (n : Nat) (rest : List HostCmd), s.phase ≠ .running →
    s.pending = .load bytes n :: rest → n ≤ s.cfg.progCap →
    ∃ t, step s = .next t ∧ t.len = n ∧
      (∀ a b, a < n → bytes[a]? = some b → Memory.read t.mem a = b) ∧
      t.toArch = { s.toArch with mem := t.mem, len := n } ∧
      t.cfg = s.cfg ∧ t.pending = rest ∧ t.hostReplies = .loaded :: s.hostReplies ∧
      t.tracePort = s.tracePort ∧ t.resultPort = s.resultPort

/-- R243: a LOAD that does not fit is refused and changes nothing; the host is told. -/
def Obligations.LoadSizeErrorChangesNothing : Prop :=
  ∀ (s : State) (bytes : List Byte) (n : Nat) (rest : List HostCmd), s.phase ≠ .running →
    s.pending = .load bytes n :: rest → s.cfg.progCap < n →
    step s = .next { s with pending := rest, hostReplies := .loadSizeError :: s.hostReplies }

/-- 70_reset_and_hazards.md (run start). Every register it names is written, the image and len are not, and an empty
program ends at once with Ended(0). That the stack storage stays as it was is the model's choice (log 6), and so is that
a RUN without a registered table is refused by name (log 11). -/
def Obligations.RunStartWrites : Prop :=
  ∀ (s : State) (rest : List HostCmd), s.phase ≠ .running → s.pending = .run :: rest →
    (s.cfg.table ≠ [] →
      step s = .next { s with
        ip := 0, imm := 0, addr0 := 0, addr1 := 0, addr2 := 0, curIdx := 0, curInl := false,
        eq := false, ne := false, gt := false, lt := false, running := true, exit := 0,
        faultKind := 0, faultIp := 0, vsp := 0, csp := 0,
        phase := if s.len = 0 then .ended else .running,
        resultPort := if s.len = 0 then .ended 0 :: s.resultPort else s.resultPort,
        pending := rest }) ∧
    (s.cfg.table = [] → step s = .refused .runWithoutTable)

/-- 70_reset_and_hazards.md (registration) and 30_encoding.md (signature codes): a table of 1 to 128 rows with legal
signature codes is registered row by row, each row with its name, its signature and its capability as offered; one
with a bad length or an illegal code is refused and changes nothing. That a row which gives a reference instruction
another signature is refused is the model's choice (log 13), and so is that a table may be registered over one already
registered (log 12). -/
def Obligations.TableRegistration : Prop :=
  ∀ (s : State) (rows : List RawDescriptor) (rest : List HostCmd), s.phase ≠ .running →
    s.pending = .registerTable rows :: rest →
    ((rows.length = 0 ∨ 128 < rows.length ∨ (∃ r ∈ rows, 5 ≤ r.sigCode.toNat) ∨
        (∃ r ∈ rows, ∃ i, r.capability = .reference i ∧
          signatureCode i.signature ≠ r.sigCode.toNat)) →
      step s = .next { s with pending := rest, hostReplies := .tableRefused :: s.hostReplies }) ∧
    (1 ≤ rows.length → rows.length ≤ 128 →
      (∀ r ∈ rows, r.sigCode.toNat < 5 ∧
        ∀ i, r.capability = .reference i → signatureCode i.signature = r.sigCode.toNat) →
      ∃ table, step s = .next { s with
          cfg := { s.cfg with table := table }, pending := rest,
          hostReplies := .tableRegistered :: s.hostReplies } ∧
        List.Forall₂ RegisteredAs rows table)

/-- 70_reset_and_hazards.md (trace registration), 60_exceptions.md (power): registering an observer sets TRACE_EN and
nothing else; between runs with nothing waiting the block keeps all its state. -/
def Obligations.BetweenRunsTheStateIsKept : Prop :=
  ∀ (s : State), s.phase ≠ .running →
    (s.pending = [] → step s = .next s) ∧
    (∀ rest, s.pending = .registerTrace :: rest →
      step s = .next { s with
        cfg := { s.cfg with traceEn := true }, pending := rest,
        hostReplies := .traceRegistered :: s.hostReplies })
end

