-- ==== Sys2Proof/Laws/Decode.lean ====
section
/-! SUPPORT. The parts of an opcode byte and of a word put together and taken apart, and everything each operand reader of the decoder
can answer. -/

namespace Sys2Proof

theorem append_low (hi lo : BitVec 8) : (hi ++ lo).extractLsb' 0 8 = lo := by
  ext i h
  rw [BitVec.getElem_extractLsb', BitVec.getLsbD_append]
  simp [h, BitVec.getLsbD_eq_getElem]

theorem append_high (hi lo : BitVec 8) : (hi ++ lo).extractLsb' 8 8 = hi := by
  ext i h
  rw [BitVec.getElem_extractLsb', BitVec.getLsbD_append]
  simp [h, BitVec.getLsbD_eq_getElem]

theorem high_append_low (v : BitVec (8 + 8)) :
    v.extractLsb' 8 8 ++ v.extractLsb' 0 8 = v := by
  ext i h
  rw [BitVec.getElem_append]
  by_cases hi : i < 8
  · simp [hi, BitVec.getLsbD_eq_getElem h]
  · simp [hi, show 8 + (i - 8) = i by omega, BitVec.getLsbD_eq_getElem h]

/-- A word is its two bytes. -/
@[simp] theorem wordOfBytes_high_low (v : Word) : wordOfBytes (highByte v) (lowByte v) = v :=
  high_append_low v

@[simp] theorem lowByte_wordOfBytes (hi lo : Byte) : lowByte (wordOfBytes hi lo) = lo :=
  append_low hi lo

@[simp] theorem highByte_wordOfBytes (hi lo : Byte) : highByte (wordOfBytes hi lo) = hi :=
  append_high hi lo

@[simp] theorem opcodeIndex_opcodeByte (inl : Bool) (idx : BitVec 7) :
    opcodeIndex (opcodeByte inl idx) = idx := by
  have h (b : BitVec 1) (x : BitVec 7) : (b ++ x).extractLsb' 0 7 = x := by
    ext i hi
    rw [BitVec.getElem_extractLsb', BitVec.getLsbD_append]
    simp [hi, BitVec.getLsbD_eq_getElem]
  exact h _ _

@[simp] theorem opcodeInline_opcodeByte (inl : Bool) (idx : BitVec 7) :
    opcodeInline (opcodeByte inl idx) = inl := by
  have h (b : BitVec 1) (x : BitVec 7) : (b ++ x).getLsbD 7 = b.getLsbD 0 := by
    rw [BitVec.getLsbD_append]
    simp
  exact (h _ _).trans (by cases inl <;> rfl)

/-- An opcode byte is its flag and its index. -/
@[simp] theorem opcodeByte_parts (o : Byte) : opcodeByte (opcodeInline o) (opcodeIndex o) = o := by
  have h (x : BitVec (1 + 7)) : BitVec.ofBool (x.getLsbD 7) ++ x.extractLsb' 0 7 = x := by
    ext i hi
    rw [BitVec.getElem_append]
    by_cases h7 : i < 7
    · simp [h7, BitVec.getLsbD_eq_getElem hi]
    · have : i = 7 := by omega
      subst this
      simp
  exact h o

/-! ### What each operand reader answers -/

theorem takeWord_ok {mk : Word → Instr} {bs rest : List Byte} {i : Instr}
    (h : takeWord mk bs = .ok (i, rest)) :
    ∃ v, i = mk v ∧ bs = lowByte v :: highByte v :: rest := by
  match bs, h with
  | lo :: hi :: r, h =>
    injection h with h
    injection h with h1 h2
    exact ⟨wordOfBytes hi lo, h1.symm, by simp [h2]⟩

theorem takeSlot_ok {mk : Byte → Instr} {bs rest : List Byte} {i : Instr}
    (h : takeSlot mk bs = .ok (i, rest)) : ∃ s0, i = mk s0 ∧ bs = s0 :: rest := by
  match bs, h with
  | s0 :: r, h =>
    injection h with h
    injection h with h1 h2
    exact ⟨s0, h1.symm, by simp [h2]⟩

theorem takeTwoSlots_ok {mk : Byte → Byte → Instr} {bs rest : List Byte} {i : Instr}
    (h : takeTwoSlots mk bs = .ok (i, rest)) :
    ∃ s0 s1, i = mk s0 s1 ∧ bs = s0 :: s1 :: rest := by
  match bs, h with
  | s0 :: s1 :: r, h =>
    injection h with h
    injection h with h1 h2
    exact ⟨s0, s1, h1.symm, by simp [h2]⟩

theorem takeThreeSlots_ok {mk : Byte → Byte → Byte → Instr} {bs rest : List Byte} {i : Instr}
    (h : takeThreeSlots mk bs = .ok (i, rest)) :
    ∃ s0 s1 s2, i = mk s0 s1 s2 ∧ bs = s0 :: s1 :: s2 :: rest := by
  match bs, h with
  | s0 :: s1 :: s2 :: r, h =>
    injection h with h
    injection h with h1 h2
    exact ⟨s0, s1, s2, h1.symm, by simp [h2]⟩

@[simp] theorem takeWord_bytes (mk : Word → Instr) (v : Word) (rest : List Byte) :
    takeWord mk (lowByte v :: highByte v :: rest) = .ok (mk v, rest) := by simp [takeWord]

/-- Row `idx` of the table holds the kind `k`. -/
theorem rowIs_iff {table : List Descriptor} {idx : BitVec 7} {k : CapKind} :
    rowIs table idx k = true ↔ ∃ d, table[idx.toNat]? = some d ∧ d.kind = k := by
  unfold rowIs
  cases h : table[idx.toNat]? <;> simp

/-- Row `idx` of the table holds a host capability with the signature `sig`. -/
theorem rowIsHost_iff {table : List Descriptor} {idx : BitVec 7} {sig : Signature} :
    rowIsHost table idx sig = true ↔
      ∃ d body, table[idx.toNat]? = some d ∧ d.kind = .host sig body := by
  unfold rowIsHost
  cases h : table[idx.toNat]? with
  | none => simp
  | some d =>
    obtain ⟨n, k⟩ := d
    cases k <;> simp

end Sys2Proof
end

