-- ==== Sys2Proof/Laws/Memory.lean ====
section
/-! SUPPORT. Sparse storage: reading after writing, in every list, and that every operation keeps the canonical form and the bound on its
indexes. -/

namespace Sys2Proof.Machine

theorem Memory.read_insert {w : Nat} (m : Memory w) (a b : Nat) (v : BitVec w) :
    Memory.read (Memory.insert m a v) b = if a = b then v else Memory.read m b := by
  induction m with
  | nil => simp [Memory.insert, Memory.read]
  | cons e rest ih =>
    obtain ⟨k, u⟩ := e
    by_cases hlt : k < a
    · simp only [Memory.insert, hlt, if_true, Memory.read, ih]
      by_cases hk : k = b
      · have : a ≠ b := by omega
        simp [hk, this]
      · simp [hk]
    · by_cases hka : k = a
      · subst hka
        by_cases hk : k = b <;> simp [Memory.insert, Memory.read, hk]
      · by_cases hab : a = b
        · subst hab
          simp [Memory.insert, Memory.read, hlt, hka]
        · simp [Memory.insert, Memory.read, hlt, hka, hab]

theorem Memory.read_erase {w : Nat} (m : Memory w) (a b : Nat) :
    Memory.read (Memory.erase m a) b =
      if a = b then Memory.unlisted w else Memory.read m b := by
  induction m with
  | nil => simp [Memory.erase, Memory.read]
  | cons e rest ih =>
    obtain ⟨k, u⟩ := e
    by_cases hka : k = a
    · subst hka
      by_cases hk : k = b
      · subst hk
        simp [Memory.erase, ih]
      · simp [Memory.erase, Memory.read, ih, hk]
    · by_cases hab : a = b
      · subst hab
        simp [Memory.erase, Memory.read, ih, hka]
      · simp [Memory.erase, Memory.read, ih, hka, hab]

/-- Reading after a write: the written value at its index, every other index as before. -/
theorem Memory.read_write {w : Nat} (m : Memory w) (a b : Nat) (v : BitVec w) :
    Memory.read (Memory.write m a v) b = if a = b then v else Memory.read m b := by
  unfold Memory.write
  split
  · rename_i h
    rw [Memory.read_erase, h]
  · exact Memory.read_insert m a b v

@[simp] theorem Memory.read_write_self {w : Nat} (m : Memory w) (a : Nat) (v : BitVec w) :
    Memory.read (Memory.write m a v) a = v := by simp [Memory.read_write]

theorem Memory.read_write_of_ne {w : Nat} (m : Memory w) {a b : Nat} (v : BitVec w)
    (h : b ≠ a) : Memory.read (Memory.write m a v) b = Memory.read m b := by
  simp [Memory.read_write, Ne.symm h]

/-- Reading after a list of writes. -/
theorem Memory.read_writeList {w : Nat} (vs : List (BitVec w)) :
    ∀ (m : Memory w) (a b : Nat), Memory.read (Memory.writeList m a vs) b =
      if a ≤ b then (vs[b - a]?).getD (Memory.read m b) else Memory.read m b := by
  induction vs with
  | nil => intro m a b; simp [Memory.writeList]
  | cons v vs ih =>
    intro m a b
    rw [Memory.writeList, ih, Memory.read_write]
    rcases Nat.lt_trichotomy a b with h | h | h
    · have h1 : a + 1 ≤ b := h
      have h2 : a ≤ b := Nat.le_of_lt h
      have h3 : b - a = (b - (a + 1)) + 1 := by omega
      have h4 : a ≠ b := by omega
      simp [h1, h2, h3, h4]
    · subst h
      simp
    · have h1 : ¬ a + 1 ≤ b := by omega
      have h2 : ¬ a ≤ b := by omega
      have h3 : a ≠ b := by omega
      simp [h1, h2, h3]

/-! ### The canonical form -/

theorem Memory.wf_cons {w : Nat} (k : Nat) (v : BitVec w) (rest : Memory w) :
    Memory.wf ((k, v) :: rest) = true ↔
      v ≠ Memory.unlisted w ∧ (∀ e ∈ rest, k < e.1) ∧ Memory.wf rest = true := by
  simp [Memory.wf, and_assoc]

theorem Memory.mem_insert {w : Nat} {m : Memory w} {a : Nat} {v : BitVec w}
    {e : Nat × BitVec w} (h : e ∈ Memory.insert m a v) : e = (a, v) ∨ e ∈ m := by
  induction m with
  | nil => simpa [Memory.insert] using h
  | cons x rest ih =>
    obtain ⟨k, u⟩ := x
    unfold Memory.insert at h
    split at h
    · rcases List.mem_cons.1 h with h | h
      · exact .inr (by simp [h])
      · exact (ih h).imp id (List.mem_cons_of_mem _)
    · split at h
      · rcases List.mem_cons.1 h with h | h
        · exact .inl h
        · exact .inr (List.mem_cons_of_mem _ h)
      · rcases List.mem_cons.1 h with h | h
        · exact .inl h
        · exact .inr h

theorem Memory.mem_erase {w : Nat} {m : Memory w} {a : Nat} {e : Nat × BitVec w}
    (h : e ∈ Memory.erase m a) : e ∈ m := by
  induction m with
  | nil => simp [Memory.erase] at h
  | cons x rest ih =>
    obtain ⟨k, u⟩ := x
    unfold Memory.erase at h
    split at h
    · exact List.mem_cons_of_mem _ (ih h)
    · rcases List.mem_cons.1 h with h | h
      · simp [h]
      · exact List.mem_cons_of_mem _ (ih h)

theorem Memory.insert_wf {w : Nat} {m : Memory w} {a : Nat} {v : BitVec w}
    (hv : v ≠ Memory.unlisted w) (h : Memory.wf m = true) :
    Memory.wf (Memory.insert m a v) = true := by
  induction m with
  | nil => simp [Memory.insert, Memory.wf, hv]
  | cons x rest ih =>
    obtain ⟨k, u⟩ := x
    obtain ⟨hu, hk, hr⟩ := (Memory.wf_cons k u rest).1 h
    unfold Memory.insert
    split
    · rename_i hlt
      refine (Memory.wf_cons _ _ _).2 ⟨hu, fun e he => ?_, ih hr⟩
      rcases Memory.mem_insert he with rfl | he
      · exact hlt
      · exact hk e he
    · split
      · rename_i hka
        exact (Memory.wf_cons _ _ _).2 ⟨hv, fun e he => hka ▸ hk e he, hr⟩
      · refine (Memory.wf_cons _ _ _).2 ⟨hv, fun e he => ?_, h⟩
        rcases List.mem_cons.1 he with rfl | he
        · simp only; omega
        · have := hk e he; omega

theorem Memory.erase_wf {w : Nat} {m : Memory w} {a : Nat} (h : Memory.wf m = true) :
    Memory.wf (Memory.erase m a) = true := by
  induction m with
  | nil => simp [Memory.erase, Memory.wf]
  | cons x rest ih =>
    obtain ⟨k, u⟩ := x
    obtain ⟨hu, hk, hr⟩ := (Memory.wf_cons k u rest).1 h
    unfold Memory.erase
    split
    · exact ih hr
    · exact (Memory.wf_cons _ _ _).2 ⟨hu, fun e he => hk e (Memory.mem_erase he), ih hr⟩

/-- A write keeps the canonical form. -/
theorem Memory.write_wf {w : Nat} {m : Memory w} (a : Nat) (v : BitVec w)
    (h : Memory.wf m = true) : Memory.wf (Memory.write m a v) = true := by
  unfold Memory.write
  split
  · exact Memory.erase_wf h
  · exact Memory.insert_wf ‹_› h

/-- A list of writes keeps the canonical form. -/
theorem Memory.writeList_wf {w : Nat} (vs : List (BitVec w)) :
    ∀ {m : Memory w} (a : Nat), Memory.wf m = true →
      Memory.wf (Memory.writeList m a vs) = true := by
  induction vs with
  | nil => exact fun _ h => h
  | cons v vs ih => exact fun a h => ih (a + 1) (Memory.write_wf a v h)

/-! ### The bound on the indexes -/

theorem Memory.write_below {w : Nat} {m : Memory w} {a n : Nat} (v : BitVec w) (ha : a < n)
    (h : Memory.below m n = true) : Memory.below (Memory.write m a v) n = true := by
  simp only [Memory.below, List.all_eq_true, decide_eq_true_eq] at h ⊢
  intro e he
  unfold Memory.write at he
  split at he
  · exact h e (Memory.mem_erase he)
  · rcases Memory.mem_insert he with rfl | he
    · exact ha
    · exact h e he

theorem Memory.writeList_below {w : Nat} (vs : List (BitVec w)) :
    ∀ {m : Memory w} {a n : Nat}, a + vs.length ≤ n → Memory.below m n = true →
      Memory.below (Memory.writeList m a vs) n = true := by
  induction vs with
  | nil => exact fun _ h => h
  | cons v vs ih =>
    intro m a n hn h
    simp only [List.length_cons] at hn
    exact ih (by omega) (Memory.write_below v (by omega) h)

/-- The power-on storage is in canonical form: nothing is listed. -/
theorem Memory.reset_wf : Memory.wf State.reset.mem = true := rfl

end Sys2Proof.Machine
end

