-- ==== Sys2Proof/Laws/State.lean ====
section
/-! SUPPORT. One lemma per field per named update of State, true by rfl, in the simp set: no proof unfolds a record update. -/

namespace Sys2Proof.Machine

/-! ### State.setIp -/

@[simp] theorem State.setIp_mem (s : State) (v : Word) :
    (s.setIp v).mem = s.mem := rfl
@[simp] theorem State.setIp_len (s : State) (v : Word) :
    (s.setIp v).len = s.len := rfl
@[simp] theorem State.setIp_ip (s : State) (v : Word) :
    (s.setIp v).ip = v := rfl
@[simp] theorem State.setIp_imm (s : State) (v : Word) :
    (s.setIp v).imm = s.imm := rfl
@[simp] theorem State.setIp_addr0 (s : State) (v : Word) :
    (s.setIp v).addr0 = s.addr0 := rfl
@[simp] theorem State.setIp_addr1 (s : State) (v : Word) :
    (s.setIp v).addr1 = s.addr1 := rfl
@[simp] theorem State.setIp_addr2 (s : State) (v : Word) :
    (s.setIp v).addr2 = s.addr2 := rfl
@[simp] theorem State.setIp_curIdx (s : State) (v : Word) :
    (s.setIp v).curIdx = s.curIdx := rfl
@[simp] theorem State.setIp_curInl (s : State) (v : Word) :
    (s.setIp v).curInl = s.curInl := rfl
@[simp] theorem State.setIp_eq (s : State) (v : Word) :
    (s.setIp v).eq = s.eq := rfl
@[simp] theorem State.setIp_ne (s : State) (v : Word) :
    (s.setIp v).ne = s.ne := rfl
@[simp] theorem State.setIp_gt (s : State) (v : Word) :
    (s.setIp v).gt = s.gt := rfl
@[simp] theorem State.setIp_lt (s : State) (v : Word) :
    (s.setIp v).lt = s.lt := rfl
@[simp] theorem State.setIp_running (s : State) (v : Word) :
    (s.setIp v).running = s.running := rfl
@[simp] theorem State.setIp_exit (s : State) (v : Word) :
    (s.setIp v).exit = s.exit := rfl
@[simp] theorem State.setIp_phase (s : State) (v : Word) :
    (s.setIp v).phase = s.phase := rfl
@[simp] theorem State.setIp_faultKind (s : State) (v : Word) :
    (s.setIp v).faultKind = s.faultKind := rfl
@[simp] theorem State.setIp_faultIp (s : State) (v : Word) :
    (s.setIp v).faultIp = s.faultIp := rfl
@[simp] theorem State.setIp_vstack (s : State) (v : Word) :
    (s.setIp v).vstack = s.vstack := rfl
@[simp] theorem State.setIp_vsp (s : State) (v : Word) :
    (s.setIp v).vsp = s.vsp := rfl
@[simp] theorem State.setIp_cstack (s : State) (v : Word) :
    (s.setIp v).cstack = s.cstack := rfl
@[simp] theorem State.setIp_csp (s : State) (v : Word) :
    (s.setIp v).csp = s.csp := rfl
@[simp] theorem State.setIp_cfg (s : State) (v : Word) :
    (s.setIp v).cfg = s.cfg := rfl
@[simp] theorem State.setIp_pending (s : State) (v : Word) :
    (s.setIp v).pending = s.pending := rfl
@[simp] theorem State.setIp_tracePort (s : State) (v : Word) :
    (s.setIp v).tracePort = s.tracePort := rfl
@[simp] theorem State.setIp_resultPort (s : State) (v : Word) :
    (s.setIp v).resultPort = s.resultPort := rfl
@[simp] theorem State.setIp_hostReplies (s : State) (v : Word) :
    (s.setIp v).hostReplies = s.hostReplies := rfl
@[simp] theorem State.setIp_draws (s : State) (v : Word) :
    (s.setIp v).draws = s.draws := rfl

/-! ### State.setOperandSet -/

@[simp] theorem State.setOperandSet_mem (s : State) (i : BitVec 7) (l : Bool) (v a0 a1 a2 : Word) :
    (s.setOperandSet i l v a0 a1 a2).mem = s.mem := rfl
@[simp] theorem State.setOperandSet_len (s : State) (i : BitVec 7) (l : Bool) (v a0 a1 a2 : Word) :
    (s.setOperandSet i l v a0 a1 a2).len = s.len := rfl
@[simp] theorem State.setOperandSet_ip (s : State) (i : BitVec 7) (l : Bool) (v a0 a1 a2 : Word) :
    (s.setOperandSet i l v a0 a1 a2).ip = s.ip := rfl
@[simp] theorem State.setOperandSet_imm (s : State) (i : BitVec 7) (l : Bool) (v a0 a1 a2 : Word) :
    (s.setOperandSet i l v a0 a1 a2).imm = v := rfl
@[simp] theorem State.setOperandSet_addr0 (s : State) (i : BitVec 7) (l : Bool) (v a0 a1 a2 : Word) :
    (s.setOperandSet i l v a0 a1 a2).addr0 = a0 := rfl
@[simp] theorem State.setOperandSet_addr1 (s : State) (i : BitVec 7) (l : Bool) (v a0 a1 a2 : Word) :
    (s.setOperandSet i l v a0 a1 a2).addr1 = a1 := rfl
@[simp] theorem State.setOperandSet_addr2 (s : State) (i : BitVec 7) (l : Bool) (v a0 a1 a2 : Word) :
    (s.setOperandSet i l v a0 a1 a2).addr2 = a2 := rfl
@[simp] theorem State.setOperandSet_curIdx (s : State) (i : BitVec 7) (l : Bool) (v a0 a1 a2 : Word) :
    (s.setOperandSet i l v a0 a1 a2).curIdx = i := rfl
@[simp] theorem State.setOperandSet_curInl (s : State) (i : BitVec 7) (l : Bool) (v a0 a1 a2 : Word) :
    (s.setOperandSet i l v a0 a1 a2).curInl = l := rfl
@[simp] theorem State.setOperandSet_eq (s : State) (i : BitVec 7) (l : Bool) (v a0 a1 a2 : Word) :
    (s.setOperandSet i l v a0 a1 a2).eq = s.eq := rfl
@[simp] theorem State.setOperandSet_ne (s : State) (i : BitVec 7) (l : Bool) (v a0 a1 a2 : Word) :
    (s.setOperandSet i l v a0 a1 a2).ne = s.ne := rfl
@[simp] theorem State.setOperandSet_gt (s : State) (i : BitVec 7) (l : Bool) (v a0 a1 a2 : Word) :
    (s.setOperandSet i l v a0 a1 a2).gt = s.gt := rfl
@[simp] theorem State.setOperandSet_lt (s : State) (i : BitVec 7) (l : Bool) (v a0 a1 a2 : Word) :
    (s.setOperandSet i l v a0 a1 a2).lt = s.lt := rfl
@[simp] theorem State.setOperandSet_running (s : State) (i : BitVec 7) (l : Bool) (v a0 a1 a2 : Word) :
    (s.setOperandSet i l v a0 a1 a2).running = s.running := rfl
@[simp] theorem State.setOperandSet_exit (s : State) (i : BitVec 7) (l : Bool) (v a0 a1 a2 : Word) :
    (s.setOperandSet i l v a0 a1 a2).exit = s.exit := rfl
@[simp] theorem State.setOperandSet_phase (s : State) (i : BitVec 7) (l : Bool) (v a0 a1 a2 : Word) :
    (s.setOperandSet i l v a0 a1 a2).phase = s.phase := rfl
@[simp] theorem State.setOperandSet_faultKind (s : State) (i : BitVec 7) (l : Bool) (v a0 a1 a2 : Word) :
    (s.setOperandSet i l v a0 a1 a2).faultKind = s.faultKind := rfl
@[simp] theorem State.setOperandSet_faultIp (s : State) (i : BitVec 7) (l : Bool) (v a0 a1 a2 : Word) :
    (s.setOperandSet i l v a0 a1 a2).faultIp = s.faultIp := rfl
@[simp] theorem State.setOperandSet_vstack (s : State) (i : BitVec 7) (l : Bool) (v a0 a1 a2 : Word) :
    (s.setOperandSet i l v a0 a1 a2).vstack = s.vstack := rfl
@[simp] theorem State.setOperandSet_vsp (s : State) (i : BitVec 7) (l : Bool) (v a0 a1 a2 : Word) :
    (s.setOperandSet i l v a0 a1 a2).vsp = s.vsp := rfl
@[simp] theorem State.setOperandSet_cstack (s : State) (i : BitVec 7) (l : Bool) (v a0 a1 a2 : Word) :
    (s.setOperandSet i l v a0 a1 a2).cstack = s.cstack := rfl
@[simp] theorem State.setOperandSet_csp (s : State) (i : BitVec 7) (l : Bool) (v a0 a1 a2 : Word) :
    (s.setOperandSet i l v a0 a1 a2).csp = s.csp := rfl
@[simp] theorem State.setOperandSet_cfg (s : State) (i : BitVec 7) (l : Bool) (v a0 a1 a2 : Word) :
    (s.setOperandSet i l v a0 a1 a2).cfg = s.cfg := rfl
@[simp] theorem State.setOperandSet_pending (s : State) (i : BitVec 7) (l : Bool) (v a0 a1 a2 : Word) :
    (s.setOperandSet i l v a0 a1 a2).pending = s.pending := rfl
@[simp] theorem State.setOperandSet_tracePort (s : State) (i : BitVec 7) (l : Bool) (v a0 a1 a2 : Word) :
    (s.setOperandSet i l v a0 a1 a2).tracePort = s.tracePort := rfl
@[simp] theorem State.setOperandSet_resultPort (s : State) (i : BitVec 7) (l : Bool) (v a0 a1 a2 : Word) :
    (s.setOperandSet i l v a0 a1 a2).resultPort = s.resultPort := rfl
@[simp] theorem State.setOperandSet_hostReplies (s : State) (i : BitVec 7) (l : Bool) (v a0 a1 a2 : Word) :
    (s.setOperandSet i l v a0 a1 a2).hostReplies = s.hostReplies := rfl
@[simp] theorem State.setOperandSet_draws (s : State) (i : BitVec 7) (l : Bool) (v a0 a1 a2 : Word) :
    (s.setOperandSet i l v a0 a1 a2).draws = s.draws := rfl

/-! ### State.setFlags -/

@[simp] theorem State.setFlags_mem (s : State) (e n g l : Bool) :
    (s.setFlags e n g l).mem = s.mem := rfl
@[simp] theorem State.setFlags_len (s : State) (e n g l : Bool) :
    (s.setFlags e n g l).len = s.len := rfl
@[simp] theorem State.setFlags_ip (s : State) (e n g l : Bool) :
    (s.setFlags e n g l).ip = s.ip := rfl
@[simp] theorem State.setFlags_imm (s : State) (e n g l : Bool) :
    (s.setFlags e n g l).imm = s.imm := rfl
@[simp] theorem State.setFlags_addr0 (s : State) (e n g l : Bool) :
    (s.setFlags e n g l).addr0 = s.addr0 := rfl
@[simp] theorem State.setFlags_addr1 (s : State) (e n g l : Bool) :
    (s.setFlags e n g l).addr1 = s.addr1 := rfl
@[simp] theorem State.setFlags_addr2 (s : State) (e n g l : Bool) :
    (s.setFlags e n g l).addr2 = s.addr2 := rfl
@[simp] theorem State.setFlags_curIdx (s : State) (e n g l : Bool) :
    (s.setFlags e n g l).curIdx = s.curIdx := rfl
@[simp] theorem State.setFlags_curInl (s : State) (e n g l : Bool) :
    (s.setFlags e n g l).curInl = s.curInl := rfl
@[simp] theorem State.setFlags_eq (s : State) (e n g l : Bool) :
    (s.setFlags e n g l).eq = e := rfl
@[simp] theorem State.setFlags_ne (s : State) (e n g l : Bool) :
    (s.setFlags e n g l).ne = n := rfl
@[simp] theorem State.setFlags_gt (s : State) (e n g l : Bool) :
    (s.setFlags e n g l).gt = g := rfl
@[simp] theorem State.setFlags_lt (s : State) (e n g l : Bool) :
    (s.setFlags e n g l).lt = l := rfl
@[simp] theorem State.setFlags_running (s : State) (e n g l : Bool) :
    (s.setFlags e n g l).running = s.running := rfl
@[simp] theorem State.setFlags_exit (s : State) (e n g l : Bool) :
    (s.setFlags e n g l).exit = s.exit := rfl
@[simp] theorem State.setFlags_phase (s : State) (e n g l : Bool) :
    (s.setFlags e n g l).phase = s.phase := rfl
@[simp] theorem State.setFlags_faultKind (s : State) (e n g l : Bool) :
    (s.setFlags e n g l).faultKind = s.faultKind := rfl
@[simp] theorem State.setFlags_faultIp (s : State) (e n g l : Bool) :
    (s.setFlags e n g l).faultIp = s.faultIp := rfl
@[simp] theorem State.setFlags_vstack (s : State) (e n g l : Bool) :
    (s.setFlags e n g l).vstack = s.vstack := rfl
@[simp] theorem State.setFlags_vsp (s : State) (e n g l : Bool) :
    (s.setFlags e n g l).vsp = s.vsp := rfl
@[simp] theorem State.setFlags_cstack (s : State) (e n g l : Bool) :
    (s.setFlags e n g l).cstack = s.cstack := rfl
@[simp] theorem State.setFlags_csp (s : State) (e n g l : Bool) :
    (s.setFlags e n g l).csp = s.csp := rfl
@[simp] theorem State.setFlags_cfg (s : State) (e n g l : Bool) :
    (s.setFlags e n g l).cfg = s.cfg := rfl
@[simp] theorem State.setFlags_pending (s : State) (e n g l : Bool) :
    (s.setFlags e n g l).pending = s.pending := rfl
@[simp] theorem State.setFlags_tracePort (s : State) (e n g l : Bool) :
    (s.setFlags e n g l).tracePort = s.tracePort := rfl
@[simp] theorem State.setFlags_resultPort (s : State) (e n g l : Bool) :
    (s.setFlags e n g l).resultPort = s.resultPort := rfl
@[simp] theorem State.setFlags_hostReplies (s : State) (e n g l : Bool) :
    (s.setFlags e n g l).hostReplies = s.hostReplies := rfl
@[simp] theorem State.setFlags_draws (s : State) (e n g l : Bool) :
    (s.setFlags e n g l).draws = s.draws := rfl

/-! ### State.setRun -/

@[simp] theorem State.setRun_mem (s : State) (r : Bool) (x : Word) :
    (s.setRun r x).mem = s.mem := rfl
@[simp] theorem State.setRun_len (s : State) (r : Bool) (x : Word) :
    (s.setRun r x).len = s.len := rfl
@[simp] theorem State.setRun_ip (s : State) (r : Bool) (x : Word) :
    (s.setRun r x).ip = s.ip := rfl
@[simp] theorem State.setRun_imm (s : State) (r : Bool) (x : Word) :
    (s.setRun r x).imm = s.imm := rfl
@[simp] theorem State.setRun_addr0 (s : State) (r : Bool) (x : Word) :
    (s.setRun r x).addr0 = s.addr0 := rfl
@[simp] theorem State.setRun_addr1 (s : State) (r : Bool) (x : Word) :
    (s.setRun r x).addr1 = s.addr1 := rfl
@[simp] theorem State.setRun_addr2 (s : State) (r : Bool) (x : Word) :
    (s.setRun r x).addr2 = s.addr2 := rfl
@[simp] theorem State.setRun_curIdx (s : State) (r : Bool) (x : Word) :
    (s.setRun r x).curIdx = s.curIdx := rfl
@[simp] theorem State.setRun_curInl (s : State) (r : Bool) (x : Word) :
    (s.setRun r x).curInl = s.curInl := rfl
@[simp] theorem State.setRun_eq (s : State) (r : Bool) (x : Word) :
    (s.setRun r x).eq = s.eq := rfl
@[simp] theorem State.setRun_ne (s : State) (r : Bool) (x : Word) :
    (s.setRun r x).ne = s.ne := rfl
@[simp] theorem State.setRun_gt (s : State) (r : Bool) (x : Word) :
    (s.setRun r x).gt = s.gt := rfl
@[simp] theorem State.setRun_lt (s : State) (r : Bool) (x : Word) :
    (s.setRun r x).lt = s.lt := rfl
@[simp] theorem State.setRun_running (s : State) (r : Bool) (x : Word) :
    (s.setRun r x).running = r := rfl
@[simp] theorem State.setRun_exit (s : State) (r : Bool) (x : Word) :
    (s.setRun r x).exit = x := rfl
@[simp] theorem State.setRun_phase (s : State) (r : Bool) (x : Word) :
    (s.setRun r x).phase = s.phase := rfl
@[simp] theorem State.setRun_faultKind (s : State) (r : Bool) (x : Word) :
    (s.setRun r x).faultKind = s.faultKind := rfl
@[simp] theorem State.setRun_faultIp (s : State) (r : Bool) (x : Word) :
    (s.setRun r x).faultIp = s.faultIp := rfl
@[simp] theorem State.setRun_vstack (s : State) (r : Bool) (x : Word) :
    (s.setRun r x).vstack = s.vstack := rfl
@[simp] theorem State.setRun_vsp (s : State) (r : Bool) (x : Word) :
    (s.setRun r x).vsp = s.vsp := rfl
@[simp] theorem State.setRun_cstack (s : State) (r : Bool) (x : Word) :
    (s.setRun r x).cstack = s.cstack := rfl
@[simp] theorem State.setRun_csp (s : State) (r : Bool) (x : Word) :
    (s.setRun r x).csp = s.csp := rfl
@[simp] theorem State.setRun_cfg (s : State) (r : Bool) (x : Word) :
    (s.setRun r x).cfg = s.cfg := rfl
@[simp] theorem State.setRun_pending (s : State) (r : Bool) (x : Word) :
    (s.setRun r x).pending = s.pending := rfl
@[simp] theorem State.setRun_tracePort (s : State) (r : Bool) (x : Word) :
    (s.setRun r x).tracePort = s.tracePort := rfl
@[simp] theorem State.setRun_resultPort (s : State) (r : Bool) (x : Word) :
    (s.setRun r x).resultPort = s.resultPort := rfl
@[simp] theorem State.setRun_hostReplies (s : State) (r : Bool) (x : Word) :
    (s.setRun r x).hostReplies = s.hostReplies := rfl
@[simp] theorem State.setRun_draws (s : State) (r : Bool) (x : Word) :
    (s.setRun r x).draws = s.draws := rfl

/-! ### State.setMem -/

@[simp] theorem State.setMem_mem (s : State) (m : List Host.Cell) :
    (s.setMem m).mem = m := rfl
@[simp] theorem State.setMem_len (s : State) (m : List Host.Cell) :
    (s.setMem m).len = s.len := rfl
@[simp] theorem State.setMem_ip (s : State) (m : List Host.Cell) :
    (s.setMem m).ip = s.ip := rfl
@[simp] theorem State.setMem_imm (s : State) (m : List Host.Cell) :
    (s.setMem m).imm = s.imm := rfl
@[simp] theorem State.setMem_addr0 (s : State) (m : List Host.Cell) :
    (s.setMem m).addr0 = s.addr0 := rfl
@[simp] theorem State.setMem_addr1 (s : State) (m : List Host.Cell) :
    (s.setMem m).addr1 = s.addr1 := rfl
@[simp] theorem State.setMem_addr2 (s : State) (m : List Host.Cell) :
    (s.setMem m).addr2 = s.addr2 := rfl
@[simp] theorem State.setMem_curIdx (s : State) (m : List Host.Cell) :
    (s.setMem m).curIdx = s.curIdx := rfl
@[simp] theorem State.setMem_curInl (s : State) (m : List Host.Cell) :
    (s.setMem m).curInl = s.curInl := rfl
@[simp] theorem State.setMem_eq (s : State) (m : List Host.Cell) :
    (s.setMem m).eq = s.eq := rfl
@[simp] theorem State.setMem_ne (s : State) (m : List Host.Cell) :
    (s.setMem m).ne = s.ne := rfl
@[simp] theorem State.setMem_gt (s : State) (m : List Host.Cell) :
    (s.setMem m).gt = s.gt := rfl
@[simp] theorem State.setMem_lt (s : State) (m : List Host.Cell) :
    (s.setMem m).lt = s.lt := rfl
@[simp] theorem State.setMem_running (s : State) (m : List Host.Cell) :
    (s.setMem m).running = s.running := rfl
@[simp] theorem State.setMem_exit (s : State) (m : List Host.Cell) :
    (s.setMem m).exit = s.exit := rfl
@[simp] theorem State.setMem_phase (s : State) (m : List Host.Cell) :
    (s.setMem m).phase = s.phase := rfl
@[simp] theorem State.setMem_faultKind (s : State) (m : List Host.Cell) :
    (s.setMem m).faultKind = s.faultKind := rfl
@[simp] theorem State.setMem_faultIp (s : State) (m : List Host.Cell) :
    (s.setMem m).faultIp = s.faultIp := rfl
@[simp] theorem State.setMem_vstack (s : State) (m : List Host.Cell) :
    (s.setMem m).vstack = s.vstack := rfl
@[simp] theorem State.setMem_vsp (s : State) (m : List Host.Cell) :
    (s.setMem m).vsp = s.vsp := rfl
@[simp] theorem State.setMem_cstack (s : State) (m : List Host.Cell) :
    (s.setMem m).cstack = s.cstack := rfl
@[simp] theorem State.setMem_csp (s : State) (m : List Host.Cell) :
    (s.setMem m).csp = s.csp := rfl
@[simp] theorem State.setMem_cfg (s : State) (m : List Host.Cell) :
    (s.setMem m).cfg = s.cfg := rfl
@[simp] theorem State.setMem_pending (s : State) (m : List Host.Cell) :
    (s.setMem m).pending = s.pending := rfl
@[simp] theorem State.setMem_tracePort (s : State) (m : List Host.Cell) :
    (s.setMem m).tracePort = s.tracePort := rfl
@[simp] theorem State.setMem_resultPort (s : State) (m : List Host.Cell) :
    (s.setMem m).resultPort = s.resultPort := rfl
@[simp] theorem State.setMem_hostReplies (s : State) (m : List Host.Cell) :
    (s.setMem m).hostReplies = s.hostReplies := rfl
@[simp] theorem State.setMem_draws (s : State) (m : List Host.Cell) :
    (s.setMem m).draws = s.draws := rfl

/-! ### State.setVstack -/

@[simp] theorem State.setVstack_mem (s : State) (st : List (Nat × Word)) (n : Nat) :
    (s.setVstack st n).mem = s.mem := rfl
@[simp] theorem State.setVstack_len (s : State) (st : List (Nat × Word)) (n : Nat) :
    (s.setVstack st n).len = s.len := rfl
@[simp] theorem State.setVstack_ip (s : State) (st : List (Nat × Word)) (n : Nat) :
    (s.setVstack st n).ip = s.ip := rfl
@[simp] theorem State.setVstack_imm (s : State) (st : List (Nat × Word)) (n : Nat) :
    (s.setVstack st n).imm = s.imm := rfl
@[simp] theorem State.setVstack_addr0 (s : State) (st : List (Nat × Word)) (n : Nat) :
    (s.setVstack st n).addr0 = s.addr0 := rfl
@[simp] theorem State.setVstack_addr1 (s : State) (st : List (Nat × Word)) (n : Nat) :
    (s.setVstack st n).addr1 = s.addr1 := rfl
@[simp] theorem State.setVstack_addr2 (s : State) (st : List (Nat × Word)) (n : Nat) :
    (s.setVstack st n).addr2 = s.addr2 := rfl
@[simp] theorem State.setVstack_curIdx (s : State) (st : List (Nat × Word)) (n : Nat) :
    (s.setVstack st n).curIdx = s.curIdx := rfl
@[simp] theorem State.setVstack_curInl (s : State) (st : List (Nat × Word)) (n : Nat) :
    (s.setVstack st n).curInl = s.curInl := rfl
@[simp] theorem State.setVstack_eq (s : State) (st : List (Nat × Word)) (n : Nat) :
    (s.setVstack st n).eq = s.eq := rfl
@[simp] theorem State.setVstack_ne (s : State) (st : List (Nat × Word)) (n : Nat) :
    (s.setVstack st n).ne = s.ne := rfl
@[simp] theorem State.setVstack_gt (s : State) (st : List (Nat × Word)) (n : Nat) :
    (s.setVstack st n).gt = s.gt := rfl
@[simp] theorem State.setVstack_lt (s : State) (st : List (Nat × Word)) (n : Nat) :
    (s.setVstack st n).lt = s.lt := rfl
@[simp] theorem State.setVstack_running (s : State) (st : List (Nat × Word)) (n : Nat) :
    (s.setVstack st n).running = s.running := rfl
@[simp] theorem State.setVstack_exit (s : State) (st : List (Nat × Word)) (n : Nat) :
    (s.setVstack st n).exit = s.exit := rfl
@[simp] theorem State.setVstack_phase (s : State) (st : List (Nat × Word)) (n : Nat) :
    (s.setVstack st n).phase = s.phase := rfl
@[simp] theorem State.setVstack_faultKind (s : State) (st : List (Nat × Word)) (n : Nat) :
    (s.setVstack st n).faultKind = s.faultKind := rfl
@[simp] theorem State.setVstack_faultIp (s : State) (st : List (Nat × Word)) (n : Nat) :
    (s.setVstack st n).faultIp = s.faultIp := rfl
@[simp] theorem State.setVstack_vstack (s : State) (st : List (Nat × Word)) (n : Nat) :
    (s.setVstack st n).vstack = st := rfl
@[simp] theorem State.setVstack_vsp (s : State) (st : List (Nat × Word)) (n : Nat) :
    (s.setVstack st n).vsp = n := rfl
@[simp] theorem State.setVstack_cstack (s : State) (st : List (Nat × Word)) (n : Nat) :
    (s.setVstack st n).cstack = s.cstack := rfl
@[simp] theorem State.setVstack_csp (s : State) (st : List (Nat × Word)) (n : Nat) :
    (s.setVstack st n).csp = s.csp := rfl
@[simp] theorem State.setVstack_cfg (s : State) (st : List (Nat × Word)) (n : Nat) :
    (s.setVstack st n).cfg = s.cfg := rfl
@[simp] theorem State.setVstack_pending (s : State) (st : List (Nat × Word)) (n : Nat) :
    (s.setVstack st n).pending = s.pending := rfl
@[simp] theorem State.setVstack_tracePort (s : State) (st : List (Nat × Word)) (n : Nat) :
    (s.setVstack st n).tracePort = s.tracePort := rfl
@[simp] theorem State.setVstack_resultPort (s : State) (st : List (Nat × Word)) (n : Nat) :
    (s.setVstack st n).resultPort = s.resultPort := rfl
@[simp] theorem State.setVstack_hostReplies (s : State) (st : List (Nat × Word)) (n : Nat) :
    (s.setVstack st n).hostReplies = s.hostReplies := rfl
@[simp] theorem State.setVstack_draws (s : State) (st : List (Nat × Word)) (n : Nat) :
    (s.setVstack st n).draws = s.draws := rfl

/-! ### State.setCstack -/

@[simp] theorem State.setCstack_mem (s : State) (st : List (Nat × Word)) (n : Nat) :
    (s.setCstack st n).mem = s.mem := rfl
@[simp] theorem State.setCstack_len (s : State) (st : List (Nat × Word)) (n : Nat) :
    (s.setCstack st n).len = s.len := rfl
@[simp] theorem State.setCstack_ip (s : State) (st : List (Nat × Word)) (n : Nat) :
    (s.setCstack st n).ip = s.ip := rfl
@[simp] theorem State.setCstack_imm (s : State) (st : List (Nat × Word)) (n : Nat) :
    (s.setCstack st n).imm = s.imm := rfl
@[simp] theorem State.setCstack_addr0 (s : State) (st : List (Nat × Word)) (n : Nat) :
    (s.setCstack st n).addr0 = s.addr0 := rfl
@[simp] theorem State.setCstack_addr1 (s : State) (st : List (Nat × Word)) (n : Nat) :
    (s.setCstack st n).addr1 = s.addr1 := rfl
@[simp] theorem State.setCstack_addr2 (s : State) (st : List (Nat × Word)) (n : Nat) :
    (s.setCstack st n).addr2 = s.addr2 := rfl
@[simp] theorem State.setCstack_curIdx (s : State) (st : List (Nat × Word)) (n : Nat) :
    (s.setCstack st n).curIdx = s.curIdx := rfl
@[simp] theorem State.setCstack_curInl (s : State) (st : List (Nat × Word)) (n : Nat) :
    (s.setCstack st n).curInl = s.curInl := rfl
@[simp] theorem State.setCstack_eq (s : State) (st : List (Nat × Word)) (n : Nat) :
    (s.setCstack st n).eq = s.eq := rfl
@[simp] theorem State.setCstack_ne (s : State) (st : List (Nat × Word)) (n : Nat) :
    (s.setCstack st n).ne = s.ne := rfl
@[simp] theorem State.setCstack_gt (s : State) (st : List (Nat × Word)) (n : Nat) :
    (s.setCstack st n).gt = s.gt := rfl
@[simp] theorem State.setCstack_lt (s : State) (st : List (Nat × Word)) (n : Nat) :
    (s.setCstack st n).lt = s.lt := rfl
@[simp] theorem State.setCstack_running (s : State) (st : List (Nat × Word)) (n : Nat) :
    (s.setCstack st n).running = s.running := rfl
@[simp] theorem State.setCstack_exit (s : State) (st : List (Nat × Word)) (n : Nat) :
    (s.setCstack st n).exit = s.exit := rfl
@[simp] theorem State.setCstack_phase (s : State) (st : List (Nat × Word)) (n : Nat) :
    (s.setCstack st n).phase = s.phase := rfl
@[simp] theorem State.setCstack_faultKind (s : State) (st : List (Nat × Word)) (n : Nat) :
    (s.setCstack st n).faultKind = s.faultKind := rfl
@[simp] theorem State.setCstack_faultIp (s : State) (st : List (Nat × Word)) (n : Nat) :
    (s.setCstack st n).faultIp = s.faultIp := rfl
@[simp] theorem State.setCstack_vstack (s : State) (st : List (Nat × Word)) (n : Nat) :
    (s.setCstack st n).vstack = s.vstack := rfl
@[simp] theorem State.setCstack_vsp (s : State) (st : List (Nat × Word)) (n : Nat) :
    (s.setCstack st n).vsp = s.vsp := rfl
@[simp] theorem State.setCstack_cstack (s : State) (st : List (Nat × Word)) (n : Nat) :
    (s.setCstack st n).cstack = st := rfl
@[simp] theorem State.setCstack_csp (s : State) (st : List (Nat × Word)) (n : Nat) :
    (s.setCstack st n).csp = n := rfl
@[simp] theorem State.setCstack_cfg (s : State) (st : List (Nat × Word)) (n : Nat) :
    (s.setCstack st n).cfg = s.cfg := rfl
@[simp] theorem State.setCstack_pending (s : State) (st : List (Nat × Word)) (n : Nat) :
    (s.setCstack st n).pending = s.pending := rfl
@[simp] theorem State.setCstack_tracePort (s : State) (st : List (Nat × Word)) (n : Nat) :
    (s.setCstack st n).tracePort = s.tracePort := rfl
@[simp] theorem State.setCstack_resultPort (s : State) (st : List (Nat × Word)) (n : Nat) :
    (s.setCstack st n).resultPort = s.resultPort := rfl
@[simp] theorem State.setCstack_hostReplies (s : State) (st : List (Nat × Word)) (n : Nat) :
    (s.setCstack st n).hostReplies = s.hostReplies := rfl
@[simp] theorem State.setCstack_draws (s : State) (st : List (Nat × Word)) (n : Nat) :
    (s.setCstack st n).draws = s.draws := rfl

/-! ### State.setPhase -/

@[simp] theorem State.setPhase_mem (s : State) (p : Phase) (k : BitVec 3) (i : Word) :
    (s.setPhase p k i).mem = s.mem := rfl
@[simp] theorem State.setPhase_len (s : State) (p : Phase) (k : BitVec 3) (i : Word) :
    (s.setPhase p k i).len = s.len := rfl
@[simp] theorem State.setPhase_ip (s : State) (p : Phase) (k : BitVec 3) (i : Word) :
    (s.setPhase p k i).ip = s.ip := rfl
@[simp] theorem State.setPhase_imm (s : State) (p : Phase) (k : BitVec 3) (i : Word) :
    (s.setPhase p k i).imm = s.imm := rfl
@[simp] theorem State.setPhase_addr0 (s : State) (p : Phase) (k : BitVec 3) (i : Word) :
    (s.setPhase p k i).addr0 = s.addr0 := rfl
@[simp] theorem State.setPhase_addr1 (s : State) (p : Phase) (k : BitVec 3) (i : Word) :
    (s.setPhase p k i).addr1 = s.addr1 := rfl
@[simp] theorem State.setPhase_addr2 (s : State) (p : Phase) (k : BitVec 3) (i : Word) :
    (s.setPhase p k i).addr2 = s.addr2 := rfl
@[simp] theorem State.setPhase_curIdx (s : State) (p : Phase) (k : BitVec 3) (i : Word) :
    (s.setPhase p k i).curIdx = s.curIdx := rfl
@[simp] theorem State.setPhase_curInl (s : State) (p : Phase) (k : BitVec 3) (i : Word) :
    (s.setPhase p k i).curInl = s.curInl := rfl
@[simp] theorem State.setPhase_eq (s : State) (p : Phase) (k : BitVec 3) (i : Word) :
    (s.setPhase p k i).eq = s.eq := rfl
@[simp] theorem State.setPhase_ne (s : State) (p : Phase) (k : BitVec 3) (i : Word) :
    (s.setPhase p k i).ne = s.ne := rfl
@[simp] theorem State.setPhase_gt (s : State) (p : Phase) (k : BitVec 3) (i : Word) :
    (s.setPhase p k i).gt = s.gt := rfl
@[simp] theorem State.setPhase_lt (s : State) (p : Phase) (k : BitVec 3) (i : Word) :
    (s.setPhase p k i).lt = s.lt := rfl
@[simp] theorem State.setPhase_running (s : State) (p : Phase) (k : BitVec 3) (i : Word) :
    (s.setPhase p k i).running = s.running := rfl
@[simp] theorem State.setPhase_exit (s : State) (p : Phase) (k : BitVec 3) (i : Word) :
    (s.setPhase p k i).exit = s.exit := rfl
@[simp] theorem State.setPhase_phase (s : State) (p : Phase) (k : BitVec 3) (i : Word) :
    (s.setPhase p k i).phase = p := rfl
@[simp] theorem State.setPhase_faultKind (s : State) (p : Phase) (k : BitVec 3) (i : Word) :
    (s.setPhase p k i).faultKind = k := rfl
@[simp] theorem State.setPhase_faultIp (s : State) (p : Phase) (k : BitVec 3) (i : Word) :
    (s.setPhase p k i).faultIp = i := rfl
@[simp] theorem State.setPhase_vstack (s : State) (p : Phase) (k : BitVec 3) (i : Word) :
    (s.setPhase p k i).vstack = s.vstack := rfl
@[simp] theorem State.setPhase_vsp (s : State) (p : Phase) (k : BitVec 3) (i : Word) :
    (s.setPhase p k i).vsp = s.vsp := rfl
@[simp] theorem State.setPhase_cstack (s : State) (p : Phase) (k : BitVec 3) (i : Word) :
    (s.setPhase p k i).cstack = s.cstack := rfl
@[simp] theorem State.setPhase_csp (s : State) (p : Phase) (k : BitVec 3) (i : Word) :
    (s.setPhase p k i).csp = s.csp := rfl
@[simp] theorem State.setPhase_cfg (s : State) (p : Phase) (k : BitVec 3) (i : Word) :
    (s.setPhase p k i).cfg = s.cfg := rfl
@[simp] theorem State.setPhase_pending (s : State) (p : Phase) (k : BitVec 3) (i : Word) :
    (s.setPhase p k i).pending = s.pending := rfl
@[simp] theorem State.setPhase_tracePort (s : State) (p : Phase) (k : BitVec 3) (i : Word) :
    (s.setPhase p k i).tracePort = s.tracePort := rfl
@[simp] theorem State.setPhase_resultPort (s : State) (p : Phase) (k : BitVec 3) (i : Word) :
    (s.setPhase p k i).resultPort = s.resultPort := rfl
@[simp] theorem State.setPhase_hostReplies (s : State) (p : Phase) (k : BitVec 3) (i : Word) :
    (s.setPhase p k i).hostReplies = s.hostReplies := rfl
@[simp] theorem State.setPhase_draws (s : State) (p : Phase) (k : BitVec 3) (i : Word) :
    (s.setPhase p k i).draws = s.draws := rfl

/-! ### State.report -/

@[simp] theorem State.report_mem (s : State) (r : RunResult) :
    (s.report r).mem = s.mem := rfl
@[simp] theorem State.report_len (s : State) (r : RunResult) :
    (s.report r).len = s.len := rfl
@[simp] theorem State.report_ip (s : State) (r : RunResult) :
    (s.report r).ip = s.ip := rfl
@[simp] theorem State.report_imm (s : State) (r : RunResult) :
    (s.report r).imm = s.imm := rfl
@[simp] theorem State.report_addr0 (s : State) (r : RunResult) :
    (s.report r).addr0 = s.addr0 := rfl
@[simp] theorem State.report_addr1 (s : State) (r : RunResult) :
    (s.report r).addr1 = s.addr1 := rfl
@[simp] theorem State.report_addr2 (s : State) (r : RunResult) :
    (s.report r).addr2 = s.addr2 := rfl
@[simp] theorem State.report_curIdx (s : State) (r : RunResult) :
    (s.report r).curIdx = s.curIdx := rfl
@[simp] theorem State.report_curInl (s : State) (r : RunResult) :
    (s.report r).curInl = s.curInl := rfl
@[simp] theorem State.report_eq (s : State) (r : RunResult) :
    (s.report r).eq = s.eq := rfl
@[simp] theorem State.report_ne (s : State) (r : RunResult) :
    (s.report r).ne = s.ne := rfl
@[simp] theorem State.report_gt (s : State) (r : RunResult) :
    (s.report r).gt = s.gt := rfl
@[simp] theorem State.report_lt (s : State) (r : RunResult) :
    (s.report r).lt = s.lt := rfl
@[simp] theorem State.report_running (s : State) (r : RunResult) :
    (s.report r).running = s.running := rfl
@[simp] theorem State.report_exit (s : State) (r : RunResult) :
    (s.report r).exit = s.exit := rfl
@[simp] theorem State.report_phase (s : State) (r : RunResult) :
    (s.report r).phase = s.phase := rfl
@[simp] theorem State.report_faultKind (s : State) (r : RunResult) :
    (s.report r).faultKind = s.faultKind := rfl
@[simp] theorem State.report_faultIp (s : State) (r : RunResult) :
    (s.report r).faultIp = s.faultIp := rfl
@[simp] theorem State.report_vstack (s : State) (r : RunResult) :
    (s.report r).vstack = s.vstack := rfl
@[simp] theorem State.report_vsp (s : State) (r : RunResult) :
    (s.report r).vsp = s.vsp := rfl
@[simp] theorem State.report_cstack (s : State) (r : RunResult) :
    (s.report r).cstack = s.cstack := rfl
@[simp] theorem State.report_csp (s : State) (r : RunResult) :
    (s.report r).csp = s.csp := rfl
@[simp] theorem State.report_cfg (s : State) (r : RunResult) :
    (s.report r).cfg = s.cfg := rfl
@[simp] theorem State.report_pending (s : State) (r : RunResult) :
    (s.report r).pending = s.pending := rfl
@[simp] theorem State.report_tracePort (s : State) (r : RunResult) :
    (s.report r).tracePort = s.tracePort := rfl
@[simp] theorem State.report_resultPort (s : State) (r : RunResult) :
    (s.report r).resultPort = r :: s.resultPort := rfl
@[simp] theorem State.report_hostReplies (s : State) (r : RunResult) :
    (s.report r).hostReplies = s.hostReplies := rfl
@[simp] theorem State.report_draws (s : State) (r : RunResult) :
    (s.report r).draws = s.draws := rfl

/-! ### State.countDraw -/

@[simp] theorem State.countDraw_mem (s : State) :
    s.countDraw.mem = s.mem := rfl
@[simp] theorem State.countDraw_len (s : State) :
    s.countDraw.len = s.len := rfl
@[simp] theorem State.countDraw_ip (s : State) :
    s.countDraw.ip = s.ip := rfl
@[simp] theorem State.countDraw_imm (s : State) :
    s.countDraw.imm = s.imm := rfl
@[simp] theorem State.countDraw_addr0 (s : State) :
    s.countDraw.addr0 = s.addr0 := rfl
@[simp] theorem State.countDraw_addr1 (s : State) :
    s.countDraw.addr1 = s.addr1 := rfl
@[simp] theorem State.countDraw_addr2 (s : State) :
    s.countDraw.addr2 = s.addr2 := rfl
@[simp] theorem State.countDraw_curIdx (s : State) :
    s.countDraw.curIdx = s.curIdx := rfl
@[simp] theorem State.countDraw_curInl (s : State) :
    s.countDraw.curInl = s.curInl := rfl
@[simp] theorem State.countDraw_eq (s : State) :
    s.countDraw.eq = s.eq := rfl
@[simp] theorem State.countDraw_ne (s : State) :
    s.countDraw.ne = s.ne := rfl
@[simp] theorem State.countDraw_gt (s : State) :
    s.countDraw.gt = s.gt := rfl
@[simp] theorem State.countDraw_lt (s : State) :
    s.countDraw.lt = s.lt := rfl
@[simp] theorem State.countDraw_running (s : State) :
    s.countDraw.running = s.running := rfl
@[simp] theorem State.countDraw_exit (s : State) :
    s.countDraw.exit = s.exit := rfl
@[simp] theorem State.countDraw_phase (s : State) :
    s.countDraw.phase = s.phase := rfl
@[simp] theorem State.countDraw_faultKind (s : State) :
    s.countDraw.faultKind = s.faultKind := rfl
@[simp] theorem State.countDraw_faultIp (s : State) :
    s.countDraw.faultIp = s.faultIp := rfl
@[simp] theorem State.countDraw_vstack (s : State) :
    s.countDraw.vstack = s.vstack := rfl
@[simp] theorem State.countDraw_vsp (s : State) :
    s.countDraw.vsp = s.vsp := rfl
@[simp] theorem State.countDraw_cstack (s : State) :
    s.countDraw.cstack = s.cstack := rfl
@[simp] theorem State.countDraw_csp (s : State) :
    s.countDraw.csp = s.csp := rfl
@[simp] theorem State.countDraw_cfg (s : State) :
    s.countDraw.cfg = s.cfg := rfl
@[simp] theorem State.countDraw_pending (s : State) :
    s.countDraw.pending = s.pending := rfl
@[simp] theorem State.countDraw_tracePort (s : State) :
    s.countDraw.tracePort = s.tracePort := rfl
@[simp] theorem State.countDraw_resultPort (s : State) :
    s.countDraw.resultPort = s.resultPort := rfl
@[simp] theorem State.countDraw_hostReplies (s : State) :
    s.countDraw.hostReplies = s.hostReplies := rfl
@[simp] theorem State.countDraw_draws (s : State) :
    s.countDraw.draws = s.draws + 1 := rfl

/-! ### State.reply -/

@[simp] theorem State.reply_mem (s : State) (r : HostReply) :
    (s.reply r).mem = s.mem := rfl
@[simp] theorem State.reply_len (s : State) (r : HostReply) :
    (s.reply r).len = s.len := rfl
@[simp] theorem State.reply_ip (s : State) (r : HostReply) :
    (s.reply r).ip = s.ip := rfl
@[simp] theorem State.reply_imm (s : State) (r : HostReply) :
    (s.reply r).imm = s.imm := rfl
@[simp] theorem State.reply_addr0 (s : State) (r : HostReply) :
    (s.reply r).addr0 = s.addr0 := rfl
@[simp] theorem State.reply_addr1 (s : State) (r : HostReply) :
    (s.reply r).addr1 = s.addr1 := rfl
@[simp] theorem State.reply_addr2 (s : State) (r : HostReply) :
    (s.reply r).addr2 = s.addr2 := rfl
@[simp] theorem State.reply_curIdx (s : State) (r : HostReply) :
    (s.reply r).curIdx = s.curIdx := rfl
@[simp] theorem State.reply_curInl (s : State) (r : HostReply) :
    (s.reply r).curInl = s.curInl := rfl
@[simp] theorem State.reply_eq (s : State) (r : HostReply) :
    (s.reply r).eq = s.eq := rfl
@[simp] theorem State.reply_ne (s : State) (r : HostReply) :
    (s.reply r).ne = s.ne := rfl
@[simp] theorem State.reply_gt (s : State) (r : HostReply) :
    (s.reply r).gt = s.gt := rfl
@[simp] theorem State.reply_lt (s : State) (r : HostReply) :
    (s.reply r).lt = s.lt := rfl
@[simp] theorem State.reply_running (s : State) (r : HostReply) :
    (s.reply r).running = s.running := rfl
@[simp] theorem State.reply_exit (s : State) (r : HostReply) :
    (s.reply r).exit = s.exit := rfl
@[simp] theorem State.reply_phase (s : State) (r : HostReply) :
    (s.reply r).phase = s.phase := rfl
@[simp] theorem State.reply_faultKind (s : State) (r : HostReply) :
    (s.reply r).faultKind = s.faultKind := rfl
@[simp] theorem State.reply_faultIp (s : State) (r : HostReply) :
    (s.reply r).faultIp = s.faultIp := rfl
@[simp] theorem State.reply_vstack (s : State) (r : HostReply) :
    (s.reply r).vstack = s.vstack := rfl
@[simp] theorem State.reply_vsp (s : State) (r : HostReply) :
    (s.reply r).vsp = s.vsp := rfl
@[simp] theorem State.reply_cstack (s : State) (r : HostReply) :
    (s.reply r).cstack = s.cstack := rfl
@[simp] theorem State.reply_csp (s : State) (r : HostReply) :
    (s.reply r).csp = s.csp := rfl
@[simp] theorem State.reply_cfg (s : State) (r : HostReply) :
    (s.reply r).cfg = s.cfg := rfl
@[simp] theorem State.reply_pending (s : State) (r : HostReply) :
    (s.reply r).pending = s.pending := rfl
@[simp] theorem State.reply_tracePort (s : State) (r : HostReply) :
    (s.reply r).tracePort = s.tracePort := rfl
@[simp] theorem State.reply_resultPort (s : State) (r : HostReply) :
    (s.reply r).resultPort = s.resultPort := rfl
@[simp] theorem State.reply_hostReplies (s : State) (r : HostReply) :
    (s.reply r).hostReplies = r :: s.hostReplies := rfl
@[simp] theorem State.reply_draws (s : State) (r : HostReply) :
    (s.reply r).draws = s.draws := rfl

/-! ### State.setConfig -/

@[simp] theorem State.setConfig_mem (s : State) (c : Config) :
    (s.setConfig c).mem = s.mem := rfl
@[simp] theorem State.setConfig_len (s : State) (c : Config) :
    (s.setConfig c).len = s.len := rfl
@[simp] theorem State.setConfig_ip (s : State) (c : Config) :
    (s.setConfig c).ip = s.ip := rfl
@[simp] theorem State.setConfig_imm (s : State) (c : Config) :
    (s.setConfig c).imm = s.imm := rfl
@[simp] theorem State.setConfig_addr0 (s : State) (c : Config) :
    (s.setConfig c).addr0 = s.addr0 := rfl
@[simp] theorem State.setConfig_addr1 (s : State) (c : Config) :
    (s.setConfig c).addr1 = s.addr1 := rfl
@[simp] theorem State.setConfig_addr2 (s : State) (c : Config) :
    (s.setConfig c).addr2 = s.addr2 := rfl
@[simp] theorem State.setConfig_curIdx (s : State) (c : Config) :
    (s.setConfig c).curIdx = s.curIdx := rfl
@[simp] theorem State.setConfig_curInl (s : State) (c : Config) :
    (s.setConfig c).curInl = s.curInl := rfl
@[simp] theorem State.setConfig_eq (s : State) (c : Config) :
    (s.setConfig c).eq = s.eq := rfl
@[simp] theorem State.setConfig_ne (s : State) (c : Config) :
    (s.setConfig c).ne = s.ne := rfl
@[simp] theorem State.setConfig_gt (s : State) (c : Config) :
    (s.setConfig c).gt = s.gt := rfl
@[simp] theorem State.setConfig_lt (s : State) (c : Config) :
    (s.setConfig c).lt = s.lt := rfl
@[simp] theorem State.setConfig_running (s : State) (c : Config) :
    (s.setConfig c).running = s.running := rfl
@[simp] theorem State.setConfig_exit (s : State) (c : Config) :
    (s.setConfig c).exit = s.exit := rfl
@[simp] theorem State.setConfig_phase (s : State) (c : Config) :
    (s.setConfig c).phase = s.phase := rfl
@[simp] theorem State.setConfig_faultKind (s : State) (c : Config) :
    (s.setConfig c).faultKind = s.faultKind := rfl
@[simp] theorem State.setConfig_faultIp (s : State) (c : Config) :
    (s.setConfig c).faultIp = s.faultIp := rfl
@[simp] theorem State.setConfig_vstack (s : State) (c : Config) :
    (s.setConfig c).vstack = s.vstack := rfl
@[simp] theorem State.setConfig_vsp (s : State) (c : Config) :
    (s.setConfig c).vsp = s.vsp := rfl
@[simp] theorem State.setConfig_cstack (s : State) (c : Config) :
    (s.setConfig c).cstack = s.cstack := rfl
@[simp] theorem State.setConfig_csp (s : State) (c : Config) :
    (s.setConfig c).csp = s.csp := rfl
@[simp] theorem State.setConfig_cfg (s : State) (c : Config) :
    (s.setConfig c).cfg = c := rfl
@[simp] theorem State.setConfig_pending (s : State) (c : Config) :
    (s.setConfig c).pending = s.pending := rfl
@[simp] theorem State.setConfig_tracePort (s : State) (c : Config) :
    (s.setConfig c).tracePort = s.tracePort := rfl
@[simp] theorem State.setConfig_resultPort (s : State) (c : Config) :
    (s.setConfig c).resultPort = s.resultPort := rfl
@[simp] theorem State.setConfig_hostReplies (s : State) (c : Config) :
    (s.setConfig c).hostReplies = s.hostReplies := rfl
@[simp] theorem State.setConfig_draws (s : State) (c : Config) :
    (s.setConfig c).draws = s.draws := rfl

/-! ### State.setImage -/

@[simp] theorem State.setImage_mem (s : State) (m : List Host.Cell) (n : Nat) :
    (s.setImage m n).mem = m := rfl
@[simp] theorem State.setImage_len (s : State) (m : List Host.Cell) (n : Nat) :
    (s.setImage m n).len = n := rfl
@[simp] theorem State.setImage_ip (s : State) (m : List Host.Cell) (n : Nat) :
    (s.setImage m n).ip = s.ip := rfl
@[simp] theorem State.setImage_imm (s : State) (m : List Host.Cell) (n : Nat) :
    (s.setImage m n).imm = s.imm := rfl
@[simp] theorem State.setImage_addr0 (s : State) (m : List Host.Cell) (n : Nat) :
    (s.setImage m n).addr0 = s.addr0 := rfl
@[simp] theorem State.setImage_addr1 (s : State) (m : List Host.Cell) (n : Nat) :
    (s.setImage m n).addr1 = s.addr1 := rfl
@[simp] theorem State.setImage_addr2 (s : State) (m : List Host.Cell) (n : Nat) :
    (s.setImage m n).addr2 = s.addr2 := rfl
@[simp] theorem State.setImage_curIdx (s : State) (m : List Host.Cell) (n : Nat) :
    (s.setImage m n).curIdx = s.curIdx := rfl
@[simp] theorem State.setImage_curInl (s : State) (m : List Host.Cell) (n : Nat) :
    (s.setImage m n).curInl = s.curInl := rfl
@[simp] theorem State.setImage_eq (s : State) (m : List Host.Cell) (n : Nat) :
    (s.setImage m n).eq = s.eq := rfl
@[simp] theorem State.setImage_ne (s : State) (m : List Host.Cell) (n : Nat) :
    (s.setImage m n).ne = s.ne := rfl
@[simp] theorem State.setImage_gt (s : State) (m : List Host.Cell) (n : Nat) :
    (s.setImage m n).gt = s.gt := rfl
@[simp] theorem State.setImage_lt (s : State) (m : List Host.Cell) (n : Nat) :
    (s.setImage m n).lt = s.lt := rfl
@[simp] theorem State.setImage_running (s : State) (m : List Host.Cell) (n : Nat) :
    (s.setImage m n).running = s.running := rfl
@[simp] theorem State.setImage_exit (s : State) (m : List Host.Cell) (n : Nat) :
    (s.setImage m n).exit = s.exit := rfl
@[simp] theorem State.setImage_phase (s : State) (m : List Host.Cell) (n : Nat) :
    (s.setImage m n).phase = s.phase := rfl
@[simp] theorem State.setImage_faultKind (s : State) (m : List Host.Cell) (n : Nat) :
    (s.setImage m n).faultKind = s.faultKind := rfl
@[simp] theorem State.setImage_faultIp (s : State) (m : List Host.Cell) (n : Nat) :
    (s.setImage m n).faultIp = s.faultIp := rfl
@[simp] theorem State.setImage_vstack (s : State) (m : List Host.Cell) (n : Nat) :
    (s.setImage m n).vstack = s.vstack := rfl
@[simp] theorem State.setImage_vsp (s : State) (m : List Host.Cell) (n : Nat) :
    (s.setImage m n).vsp = s.vsp := rfl
@[simp] theorem State.setImage_cstack (s : State) (m : List Host.Cell) (n : Nat) :
    (s.setImage m n).cstack = s.cstack := rfl
@[simp] theorem State.setImage_csp (s : State) (m : List Host.Cell) (n : Nat) :
    (s.setImage m n).csp = s.csp := rfl
@[simp] theorem State.setImage_cfg (s : State) (m : List Host.Cell) (n : Nat) :
    (s.setImage m n).cfg = s.cfg := rfl
@[simp] theorem State.setImage_pending (s : State) (m : List Host.Cell) (n : Nat) :
    (s.setImage m n).pending = s.pending := rfl
@[simp] theorem State.setImage_tracePort (s : State) (m : List Host.Cell) (n : Nat) :
    (s.setImage m n).tracePort = s.tracePort := rfl
@[simp] theorem State.setImage_resultPort (s : State) (m : List Host.Cell) (n : Nat) :
    (s.setImage m n).resultPort = s.resultPort := rfl
@[simp] theorem State.setImage_hostReplies (s : State) (m : List Host.Cell) (n : Nat) :
    (s.setImage m n).hostReplies = s.hostReplies := rfl
@[simp] theorem State.setImage_draws (s : State) (m : List Host.Cell) (n : Nat) :
    (s.setImage m n).draws = s.draws := rfl

/-! ### State.setPending -/

@[simp] theorem State.setPending_mem (s : State) (cs : List HostCmd) :
    (s.setPending cs).mem = s.mem := rfl
@[simp] theorem State.setPending_len (s : State) (cs : List HostCmd) :
    (s.setPending cs).len = s.len := rfl
@[simp] theorem State.setPending_ip (s : State) (cs : List HostCmd) :
    (s.setPending cs).ip = s.ip := rfl
@[simp] theorem State.setPending_imm (s : State) (cs : List HostCmd) :
    (s.setPending cs).imm = s.imm := rfl
@[simp] theorem State.setPending_addr0 (s : State) (cs : List HostCmd) :
    (s.setPending cs).addr0 = s.addr0 := rfl
@[simp] theorem State.setPending_addr1 (s : State) (cs : List HostCmd) :
    (s.setPending cs).addr1 = s.addr1 := rfl
@[simp] theorem State.setPending_addr2 (s : State) (cs : List HostCmd) :
    (s.setPending cs).addr2 = s.addr2 := rfl
@[simp] theorem State.setPending_curIdx (s : State) (cs : List HostCmd) :
    (s.setPending cs).curIdx = s.curIdx := rfl
@[simp] theorem State.setPending_curInl (s : State) (cs : List HostCmd) :
    (s.setPending cs).curInl = s.curInl := rfl
@[simp] theorem State.setPending_eq (s : State) (cs : List HostCmd) :
    (s.setPending cs).eq = s.eq := rfl
@[simp] theorem State.setPending_ne (s : State) (cs : List HostCmd) :
    (s.setPending cs).ne = s.ne := rfl
@[simp] theorem State.setPending_gt (s : State) (cs : List HostCmd) :
    (s.setPending cs).gt = s.gt := rfl
@[simp] theorem State.setPending_lt (s : State) (cs : List HostCmd) :
    (s.setPending cs).lt = s.lt := rfl
@[simp] theorem State.setPending_running (s : State) (cs : List HostCmd) :
    (s.setPending cs).running = s.running := rfl
@[simp] theorem State.setPending_exit (s : State) (cs : List HostCmd) :
    (s.setPending cs).exit = s.exit := rfl
@[simp] theorem State.setPending_phase (s : State) (cs : List HostCmd) :
    (s.setPending cs).phase = s.phase := rfl
@[simp] theorem State.setPending_faultKind (s : State) (cs : List HostCmd) :
    (s.setPending cs).faultKind = s.faultKind := rfl
@[simp] theorem State.setPending_faultIp (s : State) (cs : List HostCmd) :
    (s.setPending cs).faultIp = s.faultIp := rfl
@[simp] theorem State.setPending_vstack (s : State) (cs : List HostCmd) :
    (s.setPending cs).vstack = s.vstack := rfl
@[simp] theorem State.setPending_vsp (s : State) (cs : List HostCmd) :
    (s.setPending cs).vsp = s.vsp := rfl
@[simp] theorem State.setPending_cstack (s : State) (cs : List HostCmd) :
    (s.setPending cs).cstack = s.cstack := rfl
@[simp] theorem State.setPending_csp (s : State) (cs : List HostCmd) :
    (s.setPending cs).csp = s.csp := rfl
@[simp] theorem State.setPending_cfg (s : State) (cs : List HostCmd) :
    (s.setPending cs).cfg = s.cfg := rfl
@[simp] theorem State.setPending_pending (s : State) (cs : List HostCmd) :
    (s.setPending cs).pending = cs := rfl
@[simp] theorem State.setPending_tracePort (s : State) (cs : List HostCmd) :
    (s.setPending cs).tracePort = s.tracePort := rfl
@[simp] theorem State.setPending_resultPort (s : State) (cs : List HostCmd) :
    (s.setPending cs).resultPort = s.resultPort := rfl
@[simp] theorem State.setPending_hostReplies (s : State) (cs : List HostCmd) :
    (s.setPending cs).hostReplies = s.hostReplies := rfl
@[simp] theorem State.setPending_draws (s : State) (cs : List HostCmd) :
    (s.setPending cs).draws = s.draws := rfl

end Sys2Proof.Machine
end

