-- ==== Sys2Proof/Laws/Ops.lean ====
section
/-! SUPPORT. The shared operations, field by field (what the trace, the end-of-cycle check, fault entry and the resolver leave and write),
and one lemma each for the checked accessors and the two ends of a cycle. -/

namespace Sys2Proof.Machine

/-! ### Step 7 writes the trace port only -/

@[simp] theorem emitTrace_mem (s : State) : (emitTrace s).mem = s.mem := by
  unfold emitTrace; split <;> rfl
@[simp] theorem emitTrace_len (s : State) : (emitTrace s).len = s.len := by
  unfold emitTrace; split <;> rfl
@[simp] theorem emitTrace_ip (s : State) : (emitTrace s).ip = s.ip := by
  unfold emitTrace; split <;> rfl
@[simp] theorem emitTrace_imm (s : State) : (emitTrace s).imm = s.imm := by
  unfold emitTrace; split <;> rfl
@[simp] theorem emitTrace_addr0 (s : State) : (emitTrace s).addr0 = s.addr0 := by
  unfold emitTrace; split <;> rfl
@[simp] theorem emitTrace_addr1 (s : State) : (emitTrace s).addr1 = s.addr1 := by
  unfold emitTrace; split <;> rfl
@[simp] theorem emitTrace_addr2 (s : State) : (emitTrace s).addr2 = s.addr2 := by
  unfold emitTrace; split <;> rfl
@[simp] theorem emitTrace_curIdx (s : State) : (emitTrace s).curIdx = s.curIdx := by
  unfold emitTrace; split <;> rfl
@[simp] theorem emitTrace_curInl (s : State) : (emitTrace s).curInl = s.curInl := by
  unfold emitTrace; split <;> rfl
@[simp] theorem emitTrace_eq (s : State) : (emitTrace s).eq = s.eq := by
  unfold emitTrace; split <;> rfl
@[simp] theorem emitTrace_ne (s : State) : (emitTrace s).ne = s.ne := by
  unfold emitTrace; split <;> rfl
@[simp] theorem emitTrace_gt (s : State) : (emitTrace s).gt = s.gt := by
  unfold emitTrace; split <;> rfl
@[simp] theorem emitTrace_lt (s : State) : (emitTrace s).lt = s.lt := by
  unfold emitTrace; split <;> rfl
@[simp] theorem emitTrace_running (s : State) : (emitTrace s).running = s.running := by
  unfold emitTrace; split <;> rfl
@[simp] theorem emitTrace_exit (s : State) : (emitTrace s).exit = s.exit := by
  unfold emitTrace; split <;> rfl
@[simp] theorem emitTrace_phase (s : State) : (emitTrace s).phase = s.phase := by
  unfold emitTrace; split <;> rfl
@[simp] theorem emitTrace_faultKind (s : State) : (emitTrace s).faultKind = s.faultKind := by
  unfold emitTrace; split <;> rfl
@[simp] theorem emitTrace_faultIp (s : State) : (emitTrace s).faultIp = s.faultIp := by
  unfold emitTrace; split <;> rfl
@[simp] theorem emitTrace_vstack (s : State) : (emitTrace s).vstack = s.vstack := by
  unfold emitTrace; split <;> rfl
@[simp] theorem emitTrace_vsp (s : State) : (emitTrace s).vsp = s.vsp := by
  unfold emitTrace; split <;> rfl
@[simp] theorem emitTrace_cstack (s : State) : (emitTrace s).cstack = s.cstack := by
  unfold emitTrace; split <;> rfl
@[simp] theorem emitTrace_csp (s : State) : (emitTrace s).csp = s.csp := by
  unfold emitTrace; split <;> rfl
@[simp] theorem emitTrace_cfg (s : State) : (emitTrace s).cfg = s.cfg := by
  unfold emitTrace; split <;> rfl
@[simp] theorem emitTrace_pending (s : State) : (emitTrace s).pending = s.pending := by
  unfold emitTrace; split <;> rfl
@[simp] theorem emitTrace_resultPort (s : State) : (emitTrace s).resultPort = s.resultPort := by
  unfold emitTrace; split <;> rfl
@[simp] theorem emitTrace_hostReplies (s : State) : (emitTrace s).hostReplies = s.hostReplies := by
  unfold emitTrace; split <;> rfl
@[simp] theorem emitTrace_draws (s : State) : (emitTrace s).draws = s.draws := by
  unfold emitTrace; split <;> rfl

/-! ### Step 8 writes the phase and the result port only -/

@[simp] theorem endCheck_mem (s : State) : (endCheck s).mem = s.mem := by
  unfold endCheck; split_ifs <;> rfl
@[simp] theorem endCheck_len (s : State) : (endCheck s).len = s.len := by
  unfold endCheck; split_ifs <;> rfl
@[simp] theorem endCheck_ip (s : State) : (endCheck s).ip = s.ip := by
  unfold endCheck; split_ifs <;> rfl
@[simp] theorem endCheck_imm (s : State) : (endCheck s).imm = s.imm := by
  unfold endCheck; split_ifs <;> rfl
@[simp] theorem endCheck_addr0 (s : State) : (endCheck s).addr0 = s.addr0 := by
  unfold endCheck; split_ifs <;> rfl
@[simp] theorem endCheck_addr1 (s : State) : (endCheck s).addr1 = s.addr1 := by
  unfold endCheck; split_ifs <;> rfl
@[simp] theorem endCheck_addr2 (s : State) : (endCheck s).addr2 = s.addr2 := by
  unfold endCheck; split_ifs <;> rfl
@[simp] theorem endCheck_curIdx (s : State) : (endCheck s).curIdx = s.curIdx := by
  unfold endCheck; split_ifs <;> rfl
@[simp] theorem endCheck_curInl (s : State) : (endCheck s).curInl = s.curInl := by
  unfold endCheck; split_ifs <;> rfl
@[simp] theorem endCheck_eq (s : State) : (endCheck s).eq = s.eq := by
  unfold endCheck; split_ifs <;> rfl
@[simp] theorem endCheck_ne (s : State) : (endCheck s).ne = s.ne := by
  unfold endCheck; split_ifs <;> rfl
@[simp] theorem endCheck_gt (s : State) : (endCheck s).gt = s.gt := by
  unfold endCheck; split_ifs <;> rfl
@[simp] theorem endCheck_lt (s : State) : (endCheck s).lt = s.lt := by
  unfold endCheck; split_ifs <;> rfl
@[simp] theorem endCheck_running (s : State) : (endCheck s).running = s.running := by
  unfold endCheck; split_ifs <;> rfl
@[simp] theorem endCheck_exit (s : State) : (endCheck s).exit = s.exit := by
  unfold endCheck; split_ifs <;> rfl
@[simp] theorem endCheck_faultKind (s : State) : (endCheck s).faultKind = s.faultKind := by
  unfold endCheck; split_ifs <;> rfl
@[simp] theorem endCheck_faultIp (s : State) : (endCheck s).faultIp = s.faultIp := by
  unfold endCheck; split_ifs <;> rfl
@[simp] theorem endCheck_vstack (s : State) : (endCheck s).vstack = s.vstack := by
  unfold endCheck; split_ifs <;> rfl
@[simp] theorem endCheck_vsp (s : State) : (endCheck s).vsp = s.vsp := by
  unfold endCheck; split_ifs <;> rfl
@[simp] theorem endCheck_cstack (s : State) : (endCheck s).cstack = s.cstack := by
  unfold endCheck; split_ifs <;> rfl
@[simp] theorem endCheck_csp (s : State) : (endCheck s).csp = s.csp := by
  unfold endCheck; split_ifs <;> rfl
@[simp] theorem endCheck_cfg (s : State) : (endCheck s).cfg = s.cfg := by
  unfold endCheck; split_ifs <;> rfl
@[simp] theorem endCheck_pending (s : State) : (endCheck s).pending = s.pending := by
  unfold endCheck; split_ifs <;> rfl
@[simp] theorem endCheck_tracePort (s : State) : (endCheck s).tracePort = s.tracePort := by
  unfold endCheck; split_ifs <;> rfl
@[simp] theorem endCheck_hostReplies (s : State) : (endCheck s).hostReplies = s.hostReplies := by
  unfold endCheck; split_ifs <;> rfl
@[simp] theorem endCheck_draws (s : State) : (endCheck s).draws = s.draws := by
  unfold endCheck; split_ifs <;> rfl

/-! ### Fault entry -/

@[simp] theorem raiseFault_mem (k : FaultKind) (i : Word) (s : State) :
    (raiseFault k i s).mem = s.mem := rfl
@[simp] theorem raiseFault_len (k : FaultKind) (i : Word) (s : State) :
    (raiseFault k i s).len = s.len := rfl
@[simp] theorem raiseFault_ip (k : FaultKind) (i : Word) (s : State) :
    (raiseFault k i s).ip = s.ip := rfl
@[simp] theorem raiseFault_imm (k : FaultKind) (i : Word) (s : State) :
    (raiseFault k i s).imm = s.imm := rfl
@[simp] theorem raiseFault_addr0 (k : FaultKind) (i : Word) (s : State) :
    (raiseFault k i s).addr0 = s.addr0 := rfl
@[simp] theorem raiseFault_addr1 (k : FaultKind) (i : Word) (s : State) :
    (raiseFault k i s).addr1 = s.addr1 := rfl
@[simp] theorem raiseFault_addr2 (k : FaultKind) (i : Word) (s : State) :
    (raiseFault k i s).addr2 = s.addr2 := rfl
@[simp] theorem raiseFault_curIdx (k : FaultKind) (i : Word) (s : State) :
    (raiseFault k i s).curIdx = s.curIdx := rfl
@[simp] theorem raiseFault_curInl (k : FaultKind) (i : Word) (s : State) :
    (raiseFault k i s).curInl = s.curInl := rfl
@[simp] theorem raiseFault_eq (k : FaultKind) (i : Word) (s : State) :
    (raiseFault k i s).eq = s.eq := rfl
@[simp] theorem raiseFault_ne (k : FaultKind) (i : Word) (s : State) :
    (raiseFault k i s).ne = s.ne := rfl
@[simp] theorem raiseFault_gt (k : FaultKind) (i : Word) (s : State) :
    (raiseFault k i s).gt = s.gt := rfl
@[simp] theorem raiseFault_lt (k : FaultKind) (i : Word) (s : State) :
    (raiseFault k i s).lt = s.lt := rfl
@[simp] theorem raiseFault_running (k : FaultKind) (i : Word) (s : State) :
    (raiseFault k i s).running = false := rfl
@[simp] theorem raiseFault_exit (k : FaultKind) (i : Word) (s : State) :
    (raiseFault k i s).exit = s.exit := rfl
@[simp] theorem raiseFault_phase (k : FaultKind) (i : Word) (s : State) :
    (raiseFault k i s).phase = .faulted := rfl
@[simp] theorem raiseFault_faultKind (k : FaultKind) (i : Word) (s : State) :
    (raiseFault k i s).faultKind = k.code := rfl
@[simp] theorem raiseFault_faultIp (k : FaultKind) (i : Word) (s : State) :
    (raiseFault k i s).faultIp = i := rfl
@[simp] theorem raiseFault_vstack (k : FaultKind) (i : Word) (s : State) :
    (raiseFault k i s).vstack = s.vstack := rfl
@[simp] theorem raiseFault_vsp (k : FaultKind) (i : Word) (s : State) :
    (raiseFault k i s).vsp = s.vsp := rfl
@[simp] theorem raiseFault_cstack (k : FaultKind) (i : Word) (s : State) :
    (raiseFault k i s).cstack = s.cstack := rfl
@[simp] theorem raiseFault_csp (k : FaultKind) (i : Word) (s : State) :
    (raiseFault k i s).csp = s.csp := rfl
@[simp] theorem raiseFault_cfg (k : FaultKind) (i : Word) (s : State) :
    (raiseFault k i s).cfg = s.cfg := rfl
@[simp] theorem raiseFault_pending (k : FaultKind) (i : Word) (s : State) :
    (raiseFault k i s).pending = s.pending := rfl
@[simp] theorem raiseFault_tracePort (k : FaultKind) (i : Word) (s : State) :
    (raiseFault k i s).tracePort = s.tracePort := rfl
@[simp] theorem raiseFault_resultPort (k : FaultKind) (i : Word) (s : State) :
    (raiseFault k i s).resultPort = .faulted k.code i :: s.resultPort := rfl
@[simp] theorem raiseFault_hostReplies (k : FaultKind) (i : Word) (s : State) :
    (raiseFault k i s).hostReplies = s.hostReplies := rfl
@[simp] theorem raiseFault_draws (k : FaultKind) (i : Word) (s : State) :
    (raiseFault k i s).draws = s.draws := rfl

/-! ### Steps 4 and 5 -/

@[simp] theorem decoded_mem (s : State) (idx : BitVec 7) (inl : Bool) (ops : Operands) :
    (s.decoded idx inl ops).mem = s.mem := rfl
@[simp] theorem decoded_len (s : State) (idx : BitVec 7) (inl : Bool) (ops : Operands) :
    (s.decoded idx inl ops).len = s.len := rfl
@[simp] theorem decoded_ip (s : State) (idx : BitVec 7) (inl : Bool) (ops : Operands) :
    (s.decoded idx inl ops).ip = advancedIp s.cfg.inlineExtra s.ip ops.signature inl := rfl
@[simp] theorem decoded_imm (s : State) (idx : BitVec 7) (inl : Bool) (ops : Operands) :
    (s.decoded idx inl ops).imm = resolvedImm ops := rfl
@[simp] theorem decoded_addr0 (s : State) (idx : BitVec 7) (inl : Bool) (ops : Operands) :
    (s.decoded idx inl ops).addr0 = resolvedAddr0 s.ip inl ops := rfl
@[simp] theorem decoded_addr1 (s : State) (idx : BitVec 7) (inl : Bool) (ops : Operands) :
    (s.decoded idx inl ops).addr1 = resolvedAddr1 s.ip inl ops := rfl
@[simp] theorem decoded_addr2 (s : State) (idx : BitVec 7) (inl : Bool) (ops : Operands) :
    (s.decoded idx inl ops).addr2 = resolvedAddr2 s.ip inl ops := rfl
@[simp] theorem decoded_curIdx (s : State) (idx : BitVec 7) (inl : Bool) (ops : Operands) :
    (s.decoded idx inl ops).curIdx = idx := rfl
@[simp] theorem decoded_curInl (s : State) (idx : BitVec 7) (inl : Bool) (ops : Operands) :
    (s.decoded idx inl ops).curInl = inl := rfl
@[simp] theorem decoded_eq (s : State) (idx : BitVec 7) (inl : Bool) (ops : Operands) :
    (s.decoded idx inl ops).eq = s.eq := rfl
@[simp] theorem decoded_ne (s : State) (idx : BitVec 7) (inl : Bool) (ops : Operands) :
    (s.decoded idx inl ops).ne = s.ne := rfl
@[simp] theorem decoded_gt (s : State) (idx : BitVec 7) (inl : Bool) (ops : Operands) :
    (s.decoded idx inl ops).gt = s.gt := rfl
@[simp] theorem decoded_lt (s : State) (idx : BitVec 7) (inl : Bool) (ops : Operands) :
    (s.decoded idx inl ops).lt = s.lt := rfl
@[simp] theorem decoded_running (s : State) (idx : BitVec 7) (inl : Bool) (ops : Operands) :
    (s.decoded idx inl ops).running = s.running := rfl
@[simp] theorem decoded_exit (s : State) (idx : BitVec 7) (inl : Bool) (ops : Operands) :
    (s.decoded idx inl ops).exit = s.exit := rfl
@[simp] theorem decoded_phase (s : State) (idx : BitVec 7) (inl : Bool) (ops : Operands) :
    (s.decoded idx inl ops).phase = s.phase := rfl
@[simp] theorem decoded_faultKind (s : State) (idx : BitVec 7) (inl : Bool) (ops : Operands) :
    (s.decoded idx inl ops).faultKind = s.faultKind := rfl
@[simp] theorem decoded_faultIp (s : State) (idx : BitVec 7) (inl : Bool) (ops : Operands) :
    (s.decoded idx inl ops).faultIp = s.faultIp := rfl
@[simp] theorem decoded_vstack (s : State) (idx : BitVec 7) (inl : Bool) (ops : Operands) :
    (s.decoded idx inl ops).vstack = s.vstack := rfl
@[simp] theorem decoded_vsp (s : State) (idx : BitVec 7) (inl : Bool) (ops : Operands) :
    (s.decoded idx inl ops).vsp = s.vsp := rfl
@[simp] theorem decoded_cstack (s : State) (idx : BitVec 7) (inl : Bool) (ops : Operands) :
    (s.decoded idx inl ops).cstack = s.cstack := rfl
@[simp] theorem decoded_csp (s : State) (idx : BitVec 7) (inl : Bool) (ops : Operands) :
    (s.decoded idx inl ops).csp = s.csp := rfl
@[simp] theorem decoded_cfg (s : State) (idx : BitVec 7) (inl : Bool) (ops : Operands) :
    (s.decoded idx inl ops).cfg = s.cfg := rfl
@[simp] theorem decoded_pending (s : State) (idx : BitVec 7) (inl : Bool) (ops : Operands) :
    (s.decoded idx inl ops).pending = s.pending := rfl
@[simp] theorem decoded_tracePort (s : State) (idx : BitVec 7) (inl : Bool) (ops : Operands) :
    (s.decoded idx inl ops).tracePort = s.tracePort := rfl
@[simp] theorem decoded_resultPort (s : State) (idx : BitVec 7) (inl : Bool) (ops : Operands) :
    (s.decoded idx inl ops).resultPort = s.resultPort := rfl
@[simp] theorem decoded_hostReplies (s : State) (idx : BitVec 7) (inl : Bool) (ops : Operands) :
    (s.decoded idx inl ops).hostReplies = s.hostReplies := rfl
@[simp] theorem decoded_draws (s : State) (idx : BitVec 7) (inl : Bool) (ops : Operands) :
    (s.decoded idx inl ops).draws = s.draws := rfl

/-! ### RunStart -/

@[simp] theorem startRegisters_mem (s : State) :
    (startRegisters s).mem = s.mem := rfl
@[simp] theorem startRegisters_len (s : State) :
    (startRegisters s).len = s.len := rfl
@[simp] theorem startRegisters_ip (s : State) :
    (startRegisters s).ip = 0 := rfl
@[simp] theorem startRegisters_imm (s : State) :
    (startRegisters s).imm = 0 := rfl
@[simp] theorem startRegisters_addr0 (s : State) :
    (startRegisters s).addr0 = 0 := rfl
@[simp] theorem startRegisters_addr1 (s : State) :
    (startRegisters s).addr1 = 0 := rfl
@[simp] theorem startRegisters_addr2 (s : State) :
    (startRegisters s).addr2 = 0 := rfl
@[simp] theorem startRegisters_curIdx (s : State) :
    (startRegisters s).curIdx = 0 := rfl
@[simp] theorem startRegisters_curInl (s : State) :
    (startRegisters s).curInl = false := rfl
@[simp] theorem startRegisters_eq (s : State) :
    (startRegisters s).eq = false := rfl
@[simp] theorem startRegisters_ne (s : State) :
    (startRegisters s).ne = false := rfl
@[simp] theorem startRegisters_gt (s : State) :
    (startRegisters s).gt = false := rfl
@[simp] theorem startRegisters_lt (s : State) :
    (startRegisters s).lt = false := rfl
@[simp] theorem startRegisters_running (s : State) :
    (startRegisters s).running = true := rfl
@[simp] theorem startRegisters_exit (s : State) :
    (startRegisters s).exit = 0 := rfl
@[simp] theorem startRegisters_phase (s : State) :
    (startRegisters s).phase = .running := rfl
@[simp] theorem startRegisters_faultKind (s : State) :
    (startRegisters s).faultKind = 0 := rfl
@[simp] theorem startRegisters_faultIp (s : State) :
    (startRegisters s).faultIp = 0 := rfl
@[simp] theorem startRegisters_vstack (s : State) :
    (startRegisters s).vstack = s.vstack := rfl
@[simp] theorem startRegisters_vsp (s : State) :
    (startRegisters s).vsp = 0 := rfl
@[simp] theorem startRegisters_cstack (s : State) :
    (startRegisters s).cstack = s.cstack := rfl
@[simp] theorem startRegisters_csp (s : State) :
    (startRegisters s).csp = 0 := rfl
@[simp] theorem startRegisters_cfg (s : State) :
    (startRegisters s).cfg = s.cfg := rfl
@[simp] theorem startRegisters_pending (s : State) :
    (startRegisters s).pending = s.pending := rfl
@[simp] theorem startRegisters_tracePort (s : State) :
    (startRegisters s).tracePort = s.tracePort := rfl
@[simp] theorem startRegisters_resultPort (s : State) :
    (startRegisters s).resultPort = s.resultPort := rfl
@[simp] theorem startRegisters_hostReplies (s : State) :
    (startRegisters s).hostReplies = s.hostReplies := rfl
@[simp] theorem startRegisters_draws (s : State) :
    (startRegisters s).draws = s.draws := rfl

/-- A legal configuration, as the constraints of 00_scope.md rule R7. -/
theorem wellFormed_iff (c : Config) : c.wellFormed = true ↔
    1 ≤ c.progCap ∧ c.progCap ≤ 32768 ∧ c.table.length ≤ 128 ∧ 1 ≤ c.vstackCap ∧
      1 ≤ c.cstackCap := by
  simp [Config.wellFormed, and_assoc]

/-! ### The checked accessors -/

theorem cellRead_of_le {s : State} {a : Word} (h : a.toNat + 2 ≤ s.len) :
    cellRead s a = .ok (s.cellAt a) := by simp [cellRead, State.cellInRange, h]

theorem cellRead_of_gt {s : State} {a : Word} (h : s.len < a.toNat + 2) :
    cellRead s a = .error .cellOutOfRange := by
  simp [cellRead, State.cellInRange, Nat.not_le.2 h]

/-- The image a cell write leaves. -/
theorem cellWrite_of_le {s : State} {a : Word} (v : Word) (h : a.toNat + 2 ≤ s.len) :
    cellWrite s a v = .ok (s.setMem
      (Memory.write (Memory.write s.mem a.toNat (lowByte v)) (a.toNat + 1) (highByte v))) := by
  simp [cellWrite, State.cellInRange, h]

theorem cellWrite_of_gt {s : State} {a : Word} (v : Word) (h : s.len < a.toNat + 2) :
    cellWrite s a v = .error .cellOutOfRange := by
  simp [cellWrite, State.cellInRange, Nat.not_le.2 h]

/-- Everything a cell write that answers a state can do. -/
theorem cellWrite_ok {s t : State} {a v : Word} (h : cellWrite s a v = .ok t) :
    a.toNat + 2 ≤ s.len ∧ t = s.setMem
      (Memory.write (Memory.write s.mem a.toNat (lowByte v)) (a.toNat + 1) (highByte v)) := by
  unfold cellWrite at h
  split at h
  · rename_i hr
    exact ⟨by simpa [State.cellInRange] using hr, by injection h with h; exact h.symm⟩
  · cases h

theorem vPush_of_lt {s : State} (v : Word) (h : s.vsp < s.cfg.vstackCap) :
    vPush s v = .ok (s.setVstack (Memory.write s.vstack s.vsp v) (s.vsp + 1)) := by
  simp [vPush, h]

theorem vPush_of_ge {s : State} (v : Word) (h : s.cfg.vstackCap ≤ s.vsp) :
    vPush s v = .error .vstackOverflow := by simp [vPush, Nat.not_lt.2 h]

theorem cPush_of_lt {s : State} (v : Word) (h : s.csp < s.cfg.cstackCap) :
    cPush s v = .ok (s.setCstack (Memory.write s.cstack s.csp v) (s.csp + 1)) := by
  simp [cPush, h]

theorem cPush_of_ge {s : State} (v : Word) (h : s.cfg.cstackCap ≤ s.csp) :
    cPush s v = .error .cstackOverflow := by simp [cPush, Nat.not_lt.2 h]

theorem vPop_of_pos {s : State} (h : 0 < s.vsp) :
    vPop s = .ok (Memory.read s.vstack (s.vsp - 1), s.setVstack s.vstack (s.vsp - 1)) := by
  obtain ⟨n, hn⟩ : ∃ n, s.vsp = n + 1 := ⟨s.vsp - 1, by omega⟩
  simp [vPop, hn]

theorem vPop_of_zero {s : State} (h : s.vsp = 0) : vPop s = .error .vstackUnderflow := by
  simp [vPop, h]

theorem cPop_of_pos {s : State} (h : 0 < s.csp) :
    cPop s = .ok (Memory.read s.cstack (s.csp - 1), s.setCstack s.cstack (s.csp - 1)) := by
  obtain ⟨n, hn⟩ : ∃ n, s.csp = n + 1 := ⟨s.csp - 1, by omega⟩
  simp [cPop, hn]

theorem cPop_of_zero {s : State} (h : s.csp = 0) : cPop s = .error .cstackUnderflow := by
  simp [cPop, h]

/-- A cell's low byte is the byte at its address. -/
theorem lowByte_cellAt (s : State) (a : Word) :
    lowByte (s.cellAt a) = Memory.read s.mem a.toNat := append_low _ _

/-- A cell's high byte is the byte above it. -/
theorem highByte_cellAt (s : State) (a : Word) :
    highByte (s.cellAt a) = Memory.read s.mem (a.toNat + 1) := append_high _ _

/-! ### The two ends of a cycle -/

/-- The decode writes nothing the end of a cycle looks back at. -/
theorem advancedIp_eq (s : State) (sig : Signature) (inl : Bool) :
    advancedIp s.cfg.inlineExtra s.ip sig inl = advanced s sig.operandBytes inl := by
  simp [advancedIp, advanced, instrLength, Nat.add_assoc]

/-- What the end of a cycle after a capability that returned `u` is, when the capability left the ports, the phase, the
fault registers and the configuration alone. -/
theorem finishCycle_returned {s u : State} (ip0 : Word) (hp : u.phase = s.phase)
    (hf : FaultRegsKept s u) (ht : u.tracePort = s.tracePort)
    (hr : u.resultPort = s.resultPort) (hc : u.cfg = s.cfg) :
    CycleEnds s (finishCycle ip0 (.returned u)) ∧
      finishCycle ip0 (.returned u) = { u with
        phase := (finishCycle ip0 (.returned u)).phase
        resultPort := (finishCycle ip0 (.returned u)).resultPort
        tracePort := (finishCycle ip0 (.returned u)).tracePort } := by
  obtain ⟨hk, hi⟩ := hf
  rcases hte : s.cfg.traceEn <;> rcases hrun : u.running <;>
    by_cases hlen : u.len ≤ u.ip.toNat <;> rcases u with ⟨⟨⟩, _⟩ <;>
    refine ⟨⟨⟨?_, ?_⟩, ?_, ?_⟩, ?_⟩ <;>
    simp_all [finishCycle, endCheck, emitTrace, State.setPhase, State.report, -not_le, -Nat.not_le]

end Sys2Proof.Machine
end

