-- ==== Sys2Proof/Laws/Cycle.lean ====
section
/-! SUPPORT. Said once: everything a capability can do to the state, and from it everything a cycle can do. The invariant and frame
statements are case analyses over `exec_cases`. -/

namespace Sys2Proof.Machine

/-- What no capability changes between the start of the cycle `s` and the state `u` it leaves, and what it keeps of the
invariant: the frame of 46_capability.md rules R193 and R194, which every reference capability meets too. -/
structure CapFrame (s u : State) : Prop where
  len : u.len = s.len
  cfg : u.cfg = s.cfg
  pending : u.pending = s.pending
  hostReplies : u.hostReplies = s.hostReplies
  phase : u.phase = s.phase
  faultKind : u.faultKind = s.faultKind
  faultIp : u.faultIp = s.faultIp
  tracePort : u.tracePort = s.tracePort
  resultPort : u.resultPort = s.resultPort
  pastLen : ∀ a, s.len ≤ a → Memory.read u.mem a = Memory.read s.mem a
  imageOk : s.ImageOk → u.ImageOk
  stacksOk : s.StacksOk → u.StacksOk

theorem CapFrame.refl (s : State) : CapFrame s s :=
  ⟨rfl, rfl, rfl, rfl, rfl, rfl, rfl, rfl, rfl, fun _ _ => rfl, id, id⟩

theorem CapFrame.trans {s t u : State} (h : CapFrame s t) (k : CapFrame t u) : CapFrame s u where
  len := k.len.trans h.len
  cfg := k.cfg.trans h.cfg
  pending := k.pending.trans h.pending
  hostReplies := k.hostReplies.trans h.hostReplies
  phase := k.phase.trans h.phase
  faultKind := k.faultKind.trans h.faultKind
  faultIp := k.faultIp.trans h.faultIp
  tracePort := k.tracePort.trans h.tracePort
  resultPort := k.resultPort.trans h.resultPort
  pastLen a ha := (k.pastLen a (h.len ▸ ha)).trans (h.pastLen a ha)
  imageOk := k.imageOk ∘ h.imageOk
  stacksOk := k.stacksOk ∘ h.stacksOk

/-! ### The register writes -/

theorem CapFrame.setIp (s : State) (v : Word) : CapFrame s (s.setIp v) :=
  ⟨rfl, rfl, rfl, rfl, rfl, rfl, rfl, rfl, rfl, fun _ _ => rfl, id, id⟩

theorem CapFrame.setOperandSet (s : State) (i : BitVec 7) (l : Bool) (v a0 a1 a2 : Word) :
    CapFrame s (s.setOperandSet i l v a0 a1 a2) :=
  ⟨rfl, rfl, rfl, rfl, rfl, rfl, rfl, rfl, rfl, fun _ _ => rfl, id, id⟩

theorem CapFrame.setFlags (s : State) (e n g l : Bool) : CapFrame s (s.setFlags e n g l) :=
  ⟨rfl, rfl, rfl, rfl, rfl, rfl, rfl, rfl, rfl, fun _ _ => rfl, id, id⟩

theorem CapFrame.setRun (s : State) (r : Bool) (x : Word) : CapFrame s (s.setRun r x) :=
  ⟨rfl, rfl, rfl, rfl, rfl, rfl, rfl, rfl, rfl, fun _ _ => rfl, id, id⟩

theorem CapFrame.countDraw (s : State) : CapFrame s s.countDraw :=
  ⟨rfl, rfl, rfl, rfl, rfl, rfl, rfl, rfl, rfl, fun _ _ => rfl, id, id⟩

theorem CapFrame.decoded (s : State) (idx : BitVec 7) (inl : Bool) (ops : Operands) :
    CapFrame s (s.decoded idx inl ops) :=
  (CapFrame.setOperandSet ..).trans (CapFrame.setIp ..)

/-! ### The checked accessors -/

theorem CapFrame.cellWrite {s t : State} {a v : Word} (h : cellWrite s a v = .ok t) :
    CapFrame s t := by
  obtain ⟨hr, rfl⟩ := cellWrite_ok h
  refine ⟨rfl, rfl, rfl, rfl, rfl, rfl, rfl, rfl, rfl, fun b hb => ?_, fun ⟨h1, h2, h3⟩ => ?_, id⟩
  · simp only [State.setMem_mem]
    rw [Memory.read_write_of_ne _ _ (by omega), Memory.read_write_of_ne _ _ (by omega)]
  · exact ⟨h1, Memory.write_wf _ _ (Memory.write_wf _ _ h2),
      Memory.write_below _ (show a.toNat + 1 < s.cfg.progCap by omega)
        (Memory.write_below _ (show a.toNat < s.cfg.progCap by omega) h3)⟩

theorem CapFrame.vPush {s t : State} {v : Word} (h : vPush s v = .ok t) : CapFrame s t := by
  unfold Machine.vPush at h
  split at h
  · rename_i hlt
    injection h with h
    subst h
    exact ⟨rfl, rfl, rfl, rfl, rfl, rfl, rfl, rfl, rfl, fun _ _ => rfl, id, fun ⟨⟨_, h2, h3⟩, hc⟩ =>
      ⟨⟨hlt, Memory.write_wf _ _ h2, Memory.write_below _ hlt h3⟩, hc⟩⟩
  · cases h

theorem CapFrame.cPush {s t : State} {v : Word} (h : cPush s v = .ok t) : CapFrame s t := by
  unfold Machine.cPush at h
  split at h
  · rename_i hlt
    injection h with h
    subst h
    exact ⟨rfl, rfl, rfl, rfl, rfl, rfl, rfl, rfl, rfl, fun _ _ => rfl, id, fun ⟨hv, ⟨_, h2, h3⟩⟩ =>
      ⟨hv, ⟨hlt, Memory.write_wf _ _ h2, Memory.write_below _ hlt h3⟩⟩⟩
  · cases h

theorem CapFrame.vPop {s t : State} {v : Word} (h : vPop s = .ok (v, t)) : CapFrame s t := by
  unfold Machine.vPop at h
  split at h
  · cases h
  · rename_i n hn
    injection h with h
    injection h with _ h
    subst h
    exact ⟨rfl, rfl, rfl, rfl, rfl, rfl, rfl, rfl, rfl, fun _ _ => rfl, id, fun ⟨⟨h1, h2⟩, hc⟩ =>
      ⟨⟨show n ≤ s.cfg.vstackCap by omega, h2⟩, hc⟩⟩

theorem CapFrame.cPop {s t : State} {v : Word} (h : cPop s = .ok (v, t)) : CapFrame s t := by
  unfold Machine.cPop at h
  split at h
  · cases h
  · rename_i n hn
    injection h with h
    injection h with _ h
    subst h
    exact ⟨rfl, rfl, rfl, rfl, rfl, rfl, rfl, rfl, rfl, fun _ _ => rfl, id, fun ⟨hv, ⟨h1, h2⟩⟩ =>
      ⟨hv, ⟨show n ≤ s.cfg.cstackCap by omega, h2⟩⟩⟩

/-- The faults a checked accessor raises (60_exceptions.md rule R210). -/
def FaultKind.ofAccessor : FaultKind → Bool
  | .invalidOpcode | .truncatedInstruction => false
  | .cellOutOfRange | .vstackOverflow | .vstackUnderflow | .cstackOverflow | .cstackUnderflow =>
    true

theorem FaultKind.code_ne_zero (k : FaultKind) : k.code ≠ 0 := by cases k <;> decide

/-- Everything a capability's outcome `o` can be, from the state `s`. -/
def CapBounded (s : State) : CapOutcome → Prop
  | .returned u => CapFrame s u
  | .raised k u => CapFrame s u ∧ k.ofAccessor = true

theorem CapBounded.of_frame {s t : State} (h : CapFrame s t) :
    ∀ {o : CapOutcome}, CapBounded t o → CapBounded s o
  | .returned _, k => h.trans k
  | .raised _ _, k => ⟨h.trans k.1, k.2⟩

theorem cellRead_error {s : State} {a : Word} {k : FaultKind} (h : cellRead s a = .error k) :
    k.ofAccessor = true := by
  unfold cellRead at h
  split at h
  · cases h
  · injection h with h; subst h; rfl

theorem cellWrite_error {s : State} {a v : Word} {k : FaultKind}
    (h : cellWrite s a v = .error k) : k.ofAccessor = true := by
  unfold cellWrite at h
  split at h
  · cases h
  · injection h with h; subst h; rfl

theorem vPush_error {s : State} {v : Word} {k : FaultKind} (h : vPush s v = .error k) :
    k.ofAccessor = true := by
  unfold vPush at h
  split at h
  · cases h
  · injection h with h; subst h; rfl

theorem cPush_error {s : State} {v : Word} {k : FaultKind} (h : cPush s v = .error k) :
    k.ofAccessor = true := by
  unfold cPush at h
  split at h
  · cases h
  · injection h with h; subst h; rfl

theorem vPop_error {s : State} {k : FaultKind} (h : vPop s = .error k) :
    k.ofAccessor = true := by
  unfold vPop at h
  split at h
  · injection h with h; subst h; rfl
  · cases h

theorem cPop_error {s : State} {k : FaultKind} (h : cPop s = .error k) :
    k.ofAccessor = true := by
  unfold cPop at h
  split at h
  · injection h with h; subst h; rfl
  · cases h

/-! ### The capabilities -/

theorem capExit_bounded (s : State) : CapBounded s (capExit s) := CapFrame.setRun ..

theorem capJumpIf_bounded (c : State → Bool) (s : State) : CapBounded s (capJumpIf c s) := by
  show CapFrame s (if c s then s.setIp s.imm else s)
  split
  · exact CapFrame.setIp ..
  · exact CapFrame.refl s

theorem capCompare_bounded (s : State) : CapBounded s (capCompare s) := by
  unfold capCompare
  split
  · exact ⟨CapFrame.refl s, cellRead_error ‹_›⟩
  · split
    · exact ⟨CapFrame.refl s, cellRead_error ‹_›⟩
    · exact CapFrame.setFlags ..

theorem capPush_bounded (s : State) : CapBounded s (capPush s) := by
  unfold capPush
  split
  · exact ⟨CapFrame.refl s, cellRead_error ‹_›⟩
  · split
    · exact ⟨CapFrame.refl s, vPush_error ‹_›⟩
    · exact CapFrame.vPush ‹_›

theorem capPop_bounded (s : State) : CapBounded s (capPop s) := by
  unfold capPop
  split
  · split
    · exact ⟨CapFrame.refl s, vPop_error ‹_›⟩
    · rename_i v t ht
      split
      · exact ⟨CapFrame.vPop ht, cellWrite_error ‹_›⟩
      · exact (CapFrame.vPop ht).trans (CapFrame.cellWrite ‹_›)
  · exact ⟨CapFrame.refl s, rfl⟩

theorem capCall_bounded (s : State) : CapBounded s (capCall s) := by
  unfold capCall
  split
  · exact ⟨CapFrame.refl s, cPush_error ‹_›⟩
  · exact (CapFrame.cPush ‹_›).trans (CapFrame.setIp ..)

theorem capReturn_bounded (s : State) : CapBounded s (capReturn s) := by
  unfold capReturn
  split
  · exact ⟨CapFrame.refl s, cPop_error ‹_›⟩
  · exact (CapFrame.cPop ‹_›).trans (CapFrame.setIp ..)

/-- A mapped accessor call answers only what the accessor answers. -/
theorem except_map_ok {α β : Type} {f : α → β} {e : Except FaultKind α} {b : β}
    (h : e.map f = .ok b) : ∃ a, e = .ok a ∧ f a = b := by
  cases e with
  | error k => cases h
  | ok a => exact ⟨a, rfl, by injection h⟩

theorem except_map_error {α β : Type} {f : α → β} {e : Except FaultKind α} {k : FaultKind}
    (h : e.map f = .error k) : e = .error k := by
  cases e with
  | error k' => injection h with h; rw [h]
  | ok a => cases h

theorem capAction_ok {s t : State} {a : CapAction} (h : capAction s a = .ok t) :
    CapFrame s t := by
  cases a with
  | readCell a =>
    obtain ⟨_, _, rfl⟩ := except_map_ok h
    exact CapFrame.refl s
  | writeCell a v => exact CapFrame.cellWrite h
  | pushValue v => exact CapFrame.vPush h
  | popValue =>
    obtain ⟨⟨v, u⟩, hu, rfl⟩ := except_map_ok h
    exact CapFrame.vPop hu
  | pushCall v => exact CapFrame.cPush h
  | popCall =>
    obtain ⟨⟨v, u⟩, hu, rfl⟩ := except_map_ok h
    exact CapFrame.cPop hu
  | setAddr i v =>
    injection h with h
    subst h
    match i with
    | 0 | 1 | 2 => exact CapFrame.setOperandSet ..
  | setIp v => injection h with h; subst h; exact CapFrame.setIp ..
  | setImm v => injection h with h; subst h; exact CapFrame.setOperandSet ..
  | setEq b => injection h with h; subst h; exact CapFrame.setFlags ..
  | setNe b => injection h with h; subst h; exact CapFrame.setFlags ..
  | setGt b => injection h with h; subst h; exact CapFrame.setFlags ..
  | setLt b => injection h with h; subst h; exact CapFrame.setFlags ..
  | setRunning b => injection h with h; subst h; exact CapFrame.setRun ..
  | setExit v => injection h with h; subst h; exact CapFrame.setRun ..

theorem capAction_error {s : State} {a : CapAction} {k : FaultKind}
    (h : capAction s a = .error k) : k.ofAccessor = true := by
  cases a with
  | readCell a => exact cellRead_error (except_map_error h)
  | writeCell a v => exact cellWrite_error h
  | pushValue v => exact vPush_error h
  | popValue => exact vPop_error (except_map_error h)
  | pushCall v => exact cPush_error h
  | popCall => exact cPop_error (except_map_error h)
  | setAddr i v => cases h
  | setIp v => cases h
  | setImm v => cases h
  | setEq b => cases h
  | setNe b => cases h
  | setGt b => cases h
  | setLt b => cases h
  | setRunning b => cases h
  | setExit v => cases h

theorem runActions_bounded (as : List CapAction) :
    ∀ s : State, CapBounded s (runActions s as) := by
  induction as with
  | nil => exact CapFrame.refl
  | cons a rest ih =>
    intro s
    unfold runActions
    split
    · exact ⟨CapFrame.refl s, capAction_error ‹_›⟩
    · exact CapBounded.of_frame (capAction_ok ‹_›) (ih _)

/-- Every outcome of a given capability, and of an unknown one, is within the frame. -/
theorem runBody_bounded (k : BitVec 7) (b : CapBody) :
    ∀ {results : List Word} {s : State} {o : CapOutcome},
      runBody k b results s = some o → CapBounded s o := by
  induction b with
  | finish =>
    intro results s o h
    injection h with h
    subst h
    exact CapFrame.refl s
  | hang =>
    intro results s o h
    cases h
  | unknown =>
    intro results s o h
    injection h with h
    subst h
    exact CapBounded.of_frame (CapFrame.countDraw s) (runActions_bounded _ _)
  | call c next ih =>
    intro results s o h
    unfold runBody at h
    split at h
    · injection h with h
      subst h
      exact ⟨CapFrame.refl s, capAction_error ‹_›⟩
    · exact CapBounded.of_frame (capAction_ok ‹_›) (ih h)
  | branch c yes no ihy ihn =>
    intro results s o h
    unfold runBody at h
    split at h
    · exact ihy h
    · exact ihn h
  | choose x y ihx ihy =>
    intro results s o h
    unfold runBody at h
    split at h
    · exact CapBounded.of_frame (CapFrame.countDraw s) (ihx h)
    · exact CapBounded.of_frame (CapFrame.countDraw s) (ihy h)
  | input next ih =>
    intro results s o h
    exact CapBounded.of_frame (CapFrame.countDraw s) (ih h)

/-- A capability that cannot reach `hang` ends. -/
theorem runBody_ends (k : BitVec 7) (b : CapBody) :
    ∀ (results : List Word) (s : State), mayHang b = false → ∃ o, runBody k b results s = some o := by
  induction b with
  | finish => exact fun _ _ _ => ⟨_, rfl⟩
  | hang => exact fun _ _ h => by cases h
  | unknown => exact fun _ _ _ => ⟨_, rfl⟩
  | call c next ih =>
    intro results s h
    unfold runBody
    split
    · exact ⟨_, rfl⟩
    · exact ih _ _ h
  | branch c yes no ihy ihn =>
    intro results s h
    rw [mayHang, Bool.or_eq_false_iff] at h
    unfold runBody
    split
    · exact ihy _ _ h.1
    · exact ihn _ _ h.2
  | choose x y ihx ihy =>
    intro results s h
    rw [mayHang, Bool.or_eq_false_iff] at h
    unfold runBody
    split
    · exact ihx _ _ h.1
    · exact ihy _ _ h.2
  | input next ih => exact fun _ _ h => ih _ _ h

/-! ### The latches and the draws -/

/-- The state of an outcome. -/
def CapOutcome.state : CapOutcome → State
  | .returned s => s
  | .raised _ s => s

/-- An action leaves the latches and the draws. -/
theorem capAction_latches {s t : State} {a : CapAction} (h : capAction s a = .ok t) :
    t.curIdx = s.curIdx ∧ t.curInl = s.curInl ∧ t.draws = s.draws := by
  cases a with
  | readCell a =>
    obtain ⟨_, _, rfl⟩ := except_map_ok h
    exact ⟨rfl, rfl, rfl⟩
  | writeCell a v =>
    rw [(cellWrite_ok h).2]
    exact ⟨rfl, rfl, rfl⟩
  | pushValue v =>
    replace h : vPush s v = .ok t := h
    unfold vPush at h
    split at h <;> cases h
    exact ⟨rfl, rfl, rfl⟩
  | pushCall v =>
    replace h : cPush s v = .ok t := h
    unfold cPush at h
    split at h <;> cases h
    exact ⟨rfl, rfl, rfl⟩
  | popValue =>
    obtain ⟨⟨_, _⟩, hp, rfl⟩ := except_map_ok h
    unfold vPop at hp
    split at hp <;> cases hp
    exact ⟨rfl, rfl, rfl⟩
  | popCall =>
    obtain ⟨⟨_, _⟩, hp, rfl⟩ := except_map_ok h
    unfold cPop at hp
    split at hp <;> cases hp
    exact ⟨rfl, rfl, rfl⟩
  | setAddr i v =>
    cases h
    match i with
    | 0 | 1 | 2 => exact ⟨rfl, rfl, rfl⟩
  | setIp | setImm | setEq | setNe | setGt | setLt | setRunning | setExit =>
    cases h
    exact ⟨rfl, rfl, rfl⟩

theorem runActions_latches (as : List CapAction) (s : State) :
    (runActions s as).state.curIdx = s.curIdx ∧ (runActions s as).state.curInl = s.curInl ∧
      (runActions s as).state.draws = s.draws := by
  induction as generalizing s with
  | nil => exact ⟨rfl, rfl, rfl⟩
  | cons a rest ih =>
    unfold runActions
    split
    · exact ⟨rfl, rfl, rfl⟩
    · obtain ⟨h1, h2, h3⟩ := capAction_latches ‹_›
      exact ⟨(ih _).1.trans h1, (ih _).2.1.trans h2, (ih _).2.2.trans h3⟩

/-- A capability leaves the latches. -/
theorem runBody_latches (k : BitVec 7) (b : CapBody) :
    ∀ {results : List Word} {s : State} {o : CapOutcome},
      runBody k b results s = some o → o.state.curIdx = s.curIdx ∧ o.state.curInl = s.curInl := by
  induction b with
  | finish => intro results s o h; cases h; exact ⟨rfl, rfl⟩
  | hang => intro results s o h; cases h
  | unknown =>
    intro results s o h
    cases h
    have hl := runActions_latches (Config.hostCapability k (capView s) s.draws) s.countDraw
    exact ⟨hl.1, hl.2.1⟩
  | call c next ih =>
    intro results s o h
    unfold runBody at h
    split at h
    · cases h; exact ⟨rfl, rfl⟩
    · obtain ⟨h1, h2, _⟩ := capAction_latches ‹_›
      exact ⟨(ih h).1.trans h1, (ih h).2.trans h2⟩
  | branch c yes no ihy ihn =>
    intro results s o h
    unfold runBody at h
    split at h
    · exact ihy h
    · exact ihn h
  | choose x y ihx ihy =>
    intro results s o h
    unfold runBody at h
    split at h
    · exact ihx (s := s.countDraw) h
    · exact ihy (s := s.countDraw) h
  | input next ih =>
    intro results s o h
    exact ih (s := s.countDraw) h

/-- The call that stands for a known action stands for it in every state. -/
theorem groundCall_of_action (s : State) (results : List Word) (a : CapAction) :
    groundCall s results (mapCapCall .word (fun b => .word (wordOfBool b)) a) = a := by
  have hb : ∀ b : Bool, decide (wordOfBool b ≠ 0) = b := by decide
  cases a <;> first | rfl | exact congrArg _ (hb _)

/-- What EXT(k) answers: the end of the cycle after its capability, or the hang. -/
theorem execExt_of_some {idx : BitVec 7} {inl : Bool} {ops : Operands} {s : State} {o : CapOutcome}
    (h : capHost idx (s.decoded idx inl ops) = some o) :
    execExt idx inl ops s = .next (finishCycle s.ip o) := by
  unfold execExt
  rw [h]

theorem execExt_of_none {idx : BitVec 7} {inl : Bool} {ops : Operands} {s : State}
    (h : capHost idx (s.decoded idx inl ops) = none) :
    execExt idx inl ops s = .fault .capabilityHang := by
  unfold execExt
  rw [h]

/-! ### The cycle -/

/-- Everything a cycle can do: a host capability never returns; an illegal opcode takes its fault; every other
instruction leaves a framed state `u`, and then the cycle ends or an accessor's fault is taken. -/
theorem exec_cases (i : Instr) (s : State) :
    (∃ idx inl ops, i = .ext idx inl ops ∧ capHost idx (s.decoded idx inl ops) = none ∧
      exec i s = .fault .capabilityHang) ∨
    (∃ idx inl, i = .illegal idx inl ∧ exec i s = .next (raiseFault .invalidOpcode s.ip s)) ∨
    ∃ u, CapFrame s u ∧
      (exec i s = .next (endCheck (emitTrace u)) ∨
        ∃ k, k.ofAccessor = true ∧ exec i s = .next (raiseFault k s.ip u)) := by
  have ends (o : CapOutcome) (hb : CapBounded s o) (he : exec i s = .next (finishCycle s.ip o)) :
      ∃ u, CapFrame s u ∧
        (exec i s = .next (endCheck (emitTrace u)) ∨
          ∃ k, k.ofAccessor = true ∧ exec i s = .next (raiseFault k s.ip u)) := by
    cases o with
    | returned u => exact ⟨u, hb, .inl he⟩
    | raised k u => exact ⟨u, hb.1, .inr ⟨k, hb.2, he⟩⟩
  have key (idx : BitVec 7) (inl : Bool) (ops : Operands) (cap : State → CapOutcome)
      (hc : ∀ d, CapBounded d (cap d))
      (he : exec i s = .next (runCycle idx inl ops cap s)) :
      ∃ u, CapFrame s u ∧
        (exec i s = .next (endCheck (emitTrace u)) ∨
          ∃ k, k.ofAccessor = true ∧ exec i s = .next (raiseFault k s.ip u)) :=
    ends _ (CapBounded.of_frame (CapFrame.decoded s idx inl ops) (hc _)) he
  cases i with
  | exit idx inl v => exact .inr (.inr (key _ _ _ _ capExit_bounded rfl))
  | goto idx inl v => exact .inr (.inr (key _ _ _ _ (capJumpIf_bounded _) rfl))
  | gotoEquals idx inl v => exact .inr (.inr (key _ _ _ _ (capJumpIf_bounded _) rfl))
  | gotoNotEquals idx inl v => exact .inr (.inr (key _ _ _ _ (capJumpIf_bounded _) rfl))
  | gotoGreater idx inl v => exact .inr (.inr (key _ _ _ _ (capJumpIf_bounded _) rfl))
  | gotoLess idx inl v => exact .inr (.inr (key _ _ _ _ (capJumpIf_bounded _) rfl))
  | compare idx inl s0 s1 => exact .inr (.inr (key _ _ _ _ capCompare_bounded rfl))
  | push idx inl s0 => exact .inr (.inr (key _ _ _ _ capPush_bounded rfl))
  | pop idx inl s0 => exact .inr (.inr (key _ _ _ _ capPop_bounded rfl))
  | call idx inl v => exact .inr (.inr (key _ _ _ _ capCall_bounded rfl))
  | ret idx inl => exact .inr (.inr (key _ _ _ _ capReturn_bounded rfl))
  | ext idx inl ops =>
    cases h : capHost idx (s.decoded idx inl ops) with
    | none => exact .inl ⟨idx, inl, ops, rfl, h, execExt_of_none h⟩
    | some o =>
      exact .inr (.inr (ends o (CapBounded.of_frame (CapFrame.decoded s idx inl ops)
        (runBody_bounded _ _ h)) (execExt_of_some h)))
  | illegal idx inl => exact .inr (.inl ⟨idx, inl, rfl, rfl⟩)

/-- What `fetch` answers when a cycle may run. -/
theorem fetch_ready {s : State} (h : s.CycleReady) :
    (∃ i rest, decode s.cfg.table (s.fetchBytes s.ip.toNat 4) = .ok (i, rest) ∧
        fetch s = .instr i) ∨
    (decode s.cfg.table (s.fetchBytes s.ip.toNat 4) = .error .truncated ∧
      fetch s = .ended (raiseFault .truncatedInstruction s.ip s)) := by
  obtain ⟨_, h1, h2⟩ := h
  unfold fetch
  rw [if_pos (by simp [h1, h2])]
  rcases decode s.cfg.table (s.fetchBytes s.ip.toNat 4) with ⟨⟨⟩⟩ | ⟨i, rest⟩
  · exact .inr ⟨rfl, rfl⟩
  · exact .inl ⟨i, rest, rfl, rfl⟩

/-- Everything a step of a run can do: a host capability never returns; a fault of the fetch writes nothing else; else a
framed state, then the end of the cycle or an accessor's fault. -/
theorem step_running_cases {s : State} (h : s.CycleReady) :
    (∃ i rest, decode s.cfg.table (s.fetchBytes s.ip.toNat 4) = .ok (i, rest) ∧
      (∃ idx inl ops, i = .ext idx inl ops ∧ capHost idx (s.decoded idx inl ops) = none) ∧
      step s = .fault .capabilityHang) ∨
    (∃ k, step s = .next (raiseFault k s.ip s)) ∨
    ∃ u, CapFrame s u ∧
      (step s = .next (endCheck (emitTrace u)) ∨
        ∃ k, k.ofAccessor = true ∧ step s = .next (raiseFault k s.ip u)) := by
  unfold step
  rw [h.1]
  rcases fetch_ready h with ⟨i, rest, hd, hf⟩ | ⟨_, hf⟩
  · simp only [hf]
    rcases exec_cases i s with ⟨idx, inl, ops, hi, hc, he⟩ | ⟨_, _, rfl, he⟩ | hu
    · exact .inl ⟨i, rest, hd, ⟨idx, inl, ops, hi, hc⟩, he⟩
    · exact .inr (.inl ⟨_, he⟩)
    · exact .inr (.inr hu)
  · simp only [hf]
    exact .inr (.inl ⟨_, rfl⟩)

end Sys2Proof.Machine
end

