-- ==== Sys2Proof/Laws/PerInstr.lean ====
section
/-! SUPPORT. The family EncodeLength, one lemma per constructor of Instr: an encoding has the opcode byte and the operand bytes of the
signature (30_encoding.md rules R80 and R83), and its first byte carries the row and the inline flag (rule R81). -/

namespace Sys2Proof.Laws.EncodeLength

/-- The encoding of `i` is one opcode byte, whose fields are its row and its inline flag, and nb(sig) operand bytes. -/
def Statement (i : Instr) : Prop :=
  i.encode.length = 1 + i.operands.signature.operandBytes ∧
  ∃ o rest, i.encode = o :: rest ∧ opcodeIndex o = i.index ∧ opcodeInline o = i.inline

/-- Every constructor's encoding is built by the one encoder. -/
theorem of_operands (i : Instr) (h : i.operands.bytes.length = i.operands.signature.operandBytes) :
    Statement i :=
  ⟨by simp [Instr.encode, h, Nat.add_comm], _, _, rfl, by simp, by simp⟩

theorem exit (idx : BitVec 7) (inl : Bool) (v : Word) : Statement (.exit idx inl v) :=
  of_operands _ rfl
theorem goto (idx : BitVec 7) (inl : Bool) (v : Word) : Statement (.goto idx inl v) :=
  of_operands _ rfl
theorem gotoEquals (idx : BitVec 7) (inl : Bool) (v : Word) : Statement (.gotoEquals idx inl v) :=
  of_operands _ rfl
theorem gotoNotEquals (idx : BitVec 7) (inl : Bool) (v : Word) :
    Statement (.gotoNotEquals idx inl v) := of_operands _ rfl
theorem gotoGreater (idx : BitVec 7) (inl : Bool) (v : Word) :
    Statement (.gotoGreater idx inl v) := of_operands _ rfl
theorem gotoLess (idx : BitVec 7) (inl : Bool) (v : Word) : Statement (.gotoLess idx inl v) :=
  of_operands _ rfl
theorem compare (idx : BitVec 7) (inl : Bool) (s0 s1 : Byte) :
    Statement (.compare idx inl s0 s1) := of_operands _ rfl
theorem push (idx : BitVec 7) (inl : Bool) (s0 : Byte) : Statement (.push idx inl s0) :=
  of_operands _ rfl
theorem pop (idx : BitVec 7) (inl : Bool) (s0 : Byte) : Statement (.pop idx inl s0) :=
  of_operands _ rfl
theorem call (idx : BitVec 7) (inl : Bool) (v : Word) : Statement (.call idx inl v) :=
  of_operands _ rfl
theorem ret (idx : BitVec 7) (inl : Bool) : Statement (.ret idx inl) := of_operands _ rfl
theorem ext (idx : BitVec 7) (inl : Bool) (ops : Operands) : Statement (.ext idx inl ops) :=
  of_operands _ (by cases ops <;> rfl)
theorem illegal (idx : BitVec 7) (inl : Bool) : Statement (.illegal idx inl) :=
  of_operands _ rfl

end Sys2Proof.Laws.EncodeLength
end

