-- ==== Sys2Proof/Machine/Assembler.lean ====
section
/-! DEFINITION. The assembler syntax of 30_encoding.md rule R94, as abstract syntax: what each line stands for and the bytes it
emits. A mnemonic is a table row (rule R95); labels are numbers (log 23). It has no effect on the machine
(92_eei_decisions.md D27). -/

namespace Sys2Proof.Machine

/-- A word operand: a number or a label, which stands for its byte offset in the image. -/
inductive AsmValue where
  | number (v : Word)
  | label (l : Nat)
  deriving DecidableEq, Repr

/-- A slot operand: 0 to 255, or a label whose offset is below 256. -/
inductive AsmSlot where
  | number (b : Byte)
  | label (l : Nat)
  deriving DecidableEq, Repr

/-- One line of rule R94. `inl` is the suffix `.I` with its braced bytes; for a B-N row the last slot is then left out of
the text. -/
inductive AsmLine where
  | none (row : BitVec 7) (inl : Option (List Byte))
  | word (row : BitVec 7) (v : AsmValue) (inl : Option (List Byte))
  | slots (row : BitVec 7) (ss : List AsmSlot) (inl : Option (List Byte))
  | cell (v : Word)
  | byte (b : Byte)
  | label (l : Nat)
  deriving DecidableEq, Repr

/-- How many bytes the suffix adds: the braced bytes. -/
def inlineSize : Option (List Byte) → Nat
  | none => 0
  | some bs => bs.length

/-- How many bytes a line emits. -/
def AsmLine.size : AsmLine → Nat
  | .none _ inl => 1 + inlineSize inl
  | .word _ _ inl => 3 + inlineSize inl
  | .slots _ ss inl => 1 + ss.length + (if inl.isSome then 1 else 0) + inlineSize inl
  | .cell _ => 2
  | .byte _ => 1
  | .label _ => 0

/-- The offset of each label, for lines that start at `a`. -/
def labelOffsets (a : Nat) : List AsmLine → List (Nat × Nat)
  | [] => []
  | .label l :: rest => (l, a) :: labelOffsets a rest
  | x :: rest => labelOffsets (a + x.size) rest

/-- A word operand's value, where its label is defined. -/
def AsmValue.resolve (labels : List (Nat × Nat)) : AsmValue → Option Word
  | .number v => some v
  | .label l => (labels.lookup l).map (BitVec.ofNat 16)

/-- A slot operand's value, where its label is defined and below 256. -/
def AsmSlot.resolve (labels : List (Nat × Nat)) : AsmSlot → Option Byte
  | .number b => some b
  | .label l =>
    match labels.lookup l with
    | some a => if a < 256 then some (BitVec.ofNat 8 a) else none
    | none => none

/-- The slot bytes of a line. -/
def resolveSlots (labels : List (Nat × Nat)) : List AsmSlot → Option (List Byte)
  | [] => some []
  | x :: rest =>
    match x.resolve labels, resolveSlots labels rest with
    | some b, some bs => some (b :: bs)
    | _, _ => none

/-- The bytes after the operands: the braced bytes of the suffix. -/
def inlineBytes : Option (List Byte) → List Byte
  | none => []
  | some bs => bs

/-- The bytes a line emits. For an inline B-N line 00 stands in the place of the last slot. -/
def AsmLine.emit (labels : List (Nat × Nat)) : AsmLine → Option (List Byte)
  | .none row inl => some (opcodeByte inl.isSome row :: inlineBytes inl)
  | .word row v inl =>
    (v.resolve labels).map fun w =>
      opcodeByte inl.isSome row :: lowByte w :: highByte w :: inlineBytes inl
  | .slots row ss inl =>
    (resolveSlots labels ss).map fun bs =>
      opcodeByte inl.isSome row :: bs ++ (if inl.isSome then [0] else []) ++ inlineBytes inl
  | .cell v => some [lowByte v, highByte v]
  | .byte b => some [b]
  | .label _ => some []

/-- The bytes of the lines, in order. -/
def emitLines (labels : List (Nat × Nat)) : List AsmLine → Option (List Byte)
  | [] => some []
  | x :: rest =>
    match x.emit labels, emitLines labels rest with
    | some bs, some more => some (bs ++ more)
    | _, _ => none

/-- The program image of a text that starts at offset 0. -/
def assemble (lines : List AsmLine) : Option (List Byte) :=
  emitLines (labelOffsets 0 lines) lines

end Sys2Proof.Machine
end

