-- ==== Sys2Proof/Tests/Slice0.lean ====
section
/-! SUPPORT. Tests of the model. Every expected value is from the spec: the vectors of 95_test_vectors.md, the examples in the
instruction rules, or a word written out from the formats of 30_encoding.md rule R85 and the opcode map of rule R88. The
witnesses at the end show states that meet the hypotheses of the statements. -/

namespace Sys2Proof.Tests

open Sys2Proof Sys2Proof.Machine

/-! ### Helpers -/

/-- A run at ip 0 of the image `bytes`, with the reference table and the default parameters of 95_test_vectors.md. -/
def started (bytes : List Byte) : State :=
  { State.reset with
    mem := Memory.writeList [] 0 bytes
    len := bytes.length
    phase := .running
    cfg := { powerOnConfig with table := referenceTable } }

/-- The same at another ip. -/
def startedAt (ip : Word) (bytes : List Byte) : State := (started bytes).setIp ip

/-- The same with the value stack `vs`, top last. -/
def withValues (vs : List Word) (s : State) : State :=
  s.setVstack (Memory.writeList [] 0 vs) vs.length

/-- The same with the call stack `cs`, top last. -/
def withCalls (cs : List Word) (s : State) : State :=
  s.setCstack (Memory.writeList [] 0 cs) cs.length

/-- What `f` shows of the next state, if there is one. -/
def seen {α : Type} (f : State → α) (o : Host.Outcome State Fault Refusal) : Option α :=
  match o with
  | .next t => some (f t)
  | .fault _ => none
  | .refused _ => none

/-- A table whose row 11 is a host capability. -/
def extTable (sig : Signature) : List Descriptor := referenceTable ++ [⟨"EXT", .host sig .unknown⟩]

/-- The flags. -/
def flags (s : State) : Bool × Bool × Bool × Bool := (s.eq, s.ne, s.gt, s.lt)

/-! ### WellFormed refuses (00_scope.md rule R7, 30_encoding.md rules R88 to R90) -/

theorem test_wf_accepts : (Instr.compare 6 true 0x0C 0x0E).wellFormed referenceTable = true := by decide
theorem test_wf_wrong_row : (Instr.compare 7 true 0x0C 0x0E).wellFormed referenceTable = false := by decide
theorem test_wf_no_row : (Instr.ret 11 false).wellFormed referenceTable = false := by decide
theorem test_wf_ext_signature : (Instr.ext 11 false (.b2 1 2)).wellFormed (extTable .b3) = false := by decide
theorem test_wf_illegal_inside : (Instr.illegal 10 false).wellFormed referenceTable = false := by decide
theorem test_wf_config : powerOnConfig.wellFormed = true := by decide
theorem test_wf_prog_cap_zero : { powerOnConfig with progCap := 0 }.wellFormed = false := by decide
theorem test_wf_prog_cap_large : { powerOnConfig with progCap := 32769 }.wellFormed = false := by decide
theorem test_wf_vstack_cap : { powerOnConfig with vstackCap := 0 }.wellFormed = false := by decide
theorem test_wf_cstack_cap : { powerOnConfig with cstackCap := 0 }.wellFormed = false := by decide
theorem test_wf_table_len :
    { powerOnConfig with table := List.replicate 129 ⟨"X", .host .none .unknown⟩ }.wellFormed = false := by
  simp [Config.wellFormed]

/-! ### Decoding and encoding: words written out from rules R81, R85 and R88 -/

/-- `0 0000000`, `0010 1010`, `0000 0000`: EXIT 42 (95_test_vectors.md S1). -/
theorem test_decode_exit : decodeTableWord 24 0b00000000_00101010_00000000 = some (.exit 0 false 42) := by decide
/-- `1 0000001`, then `34 12`: GOTO.I 0x1234 (D-DEC). -/
theorem test_decode_goto : decodeTableWord 24 0x123481 = some (.goto 1 true 0x1234) := by decide
/-- Rows 2 to 5: the conditional jumps to 9, the last one with the inline flag. -/
theorem test_decode_conditional :
    decodeTableWord 24 0x000902 = some (.gotoEquals 2 false 9) ∧
    decodeTableWord 24 0x000903 = some (.gotoNotEquals 3 false 9) ∧
    decodeTableWord 24 0x000904 = some (.gotoGreater 4 false 9) ∧
    decodeTableWord 24 0x000985 = some (.gotoLess 5 true 9) := by decide
/-- `06 0C 0E`: COMPARE 12, 14 (D-DEC). -/
theorem test_decode_compare : decodeTableWord 24 0x0E0C06 = some (.compare 6 false 0x0C 0x0E) := by decide
/-- `07 25`: PUSH 0x25 (D-DEC). `88 00`: POP.I. -/
theorem test_decode_stack :
    decodeTableWord 16 0x2507 = some (.push 7 false 0x25) ∧
    decodeTableWord 16 0x0088 = some (.pop 8 true 0) := by decide
/-- `09 07 00`: CALL 7 (D-CALL). `8A`: RETURN.I (D-DEC). -/
theorem test_decode_call :
    decodeTableWord 24 0x000709 = some (.call 9 false 7) ∧
    decodeTableWord 8 0x8A = some (.ret 10 true) := by decide
/-- `0B`, `7F`, `FF` (D-DEC). -/
theorem test_decode_illegal :
    decodeTableWord 8 0x0B = some (.illegal 11 false) ∧
    decodeTableWord 8 0x7F = some (.illegal 127 false) ∧
    decodeTableWord 8 0xFF = some (.illegal 127 true) := by decide
/-- `0B 01 02 03` with SIG[11] = B3 (D-DEC), and each other signature at that row. -/
theorem test_decode_ext :
    decode (extTable .b3) [0x0B, 1, 2, 3] = .ok (.ext 11 false (.b3 1 2 3), []) ∧
    decode (extTable .b2) [0x8B, 1, 2, 3] = .ok (.ext 11 true (.b2 1 2), [3]) ∧
    decode (extTable .b1) [0x0B, 1] = .ok (.ext 11 false (.b1 1), []) ∧
    decode (extTable .word) [0x0B, 0x34, 0x12] = .ok (.ext 11 false (.word 0x1234), []) ∧
    decode (extTable .none) [0x8B] = .ok (.ext 11 true .none, []) := by decide
/-- `06 0C` and `01 34` stop for want of a byte (D-DEC). -/
theorem test_decode_truncated :
    decode referenceTable [0x06, 0x0C] = .error .truncated ∧
    decode referenceTable [0x01, 0x34] = .error .truncated := by decide
/-- The bits above nbits are zero: a row given by its first byte only. -/
theorem test_decode_short_word : decodeTableWord 8 0x01 = some (.goto 1 false 0) := by decide
/-- `86 0C 0E` (D-DEC) and `89 07 00` (D-CALL). -/
theorem test_encode :
    (Instr.compare 6 true 0x0C 0x0E).encode = [0x86, 0x0C, 0x0E] ∧
    (Instr.call 9 true 7).encode = [0x89, 0x07, 0x00] := by decide
/-- The lengths of the table in rule R84. -/
theorem test_length :
    instrLength .two .none true = 3 ∧ instrLength .one .word true = 4 ∧
    instrLength .two .b3 true = 6 ∧ instrLength .one .b1 false = 2 := by decide

/-! ### The assembler: the examples of rule R94 and the text of program P1 -/

theorem test_asm_inline :
    assemble [.slots 7 [] (some [0x34])] = some [0x87, 0x00, 0x34] ∧
    assemble [.slots 6 [.number 12] (some [0x05])] = some [0x86, 0x0C, 0x00, 0x05] ∧
    assemble [.word 0 (.number 42) (some [0x00])] = some [0x80, 0x2A, 0x00, 0x00] := by decide
/-- P1 with labels for its jump target (0) and its cells (1, 2). -/
theorem test_asm_p1 :
    assemble [.slots 6 [.label 1, .label 2] none, .word 2 (.label 0) none, .word 0 (.number 1) none,
      .label 0, .word 0 (.number 7) none, .label 1, .cell 5, .label 2, .cell 5] =
    some [0x06, 0x0C, 0x0E, 0x02, 0x09, 0x00, 0x00, 0x01, 0x00, 0x00, 0x07, 0x00, 0x05, 0x00,
      0x05, 0x00] := by decide

/-! ### The decoder's vectors (D-DEC): one step each -/

/-- `80 2A 00` (len 3): imm = 42, ip = 4, Halted(42). -/
theorem test_exit_inline :
    seen (fun t => (t.imm, t.ip, t.phase, t.resultPort)) (step (started [0x80, 0x2A, 0x00])) =
      some (42, 4, .halted, [.halted 42]) := by decide
/-- `00 00 80`: Halted(-32768), running = 0, ip = 3. -/
theorem test_exit_negative :
    seen (fun t => (t.ip, t.running, t.resultPort)) (step (started [0x00, 0x00, 0x80])) =
      some (3, false, [.halted (BitVec.ofInt 16 (-32768))]) := by decide
/-- `87 55` and cells behind it: addr[0] = 2, not 0x55; ip = 3, or 4 with INLINE_EXTRA = 2. -/
theorem test_resolve_b1_inline :
    ((started [0x87, 0x55]).decoded 7 true (.b1 0x55)).addr0 = 2 ∧
    ((started [0x87, 0x55]).decoded 7 true (.b1 0x55)).ip = 3 ∧
    (((started [0x87, 0x55]).setConfig { powerOnConfig with inlineExtra := .two }).decoded 7 true
      (.b1 0x55)).ip = 4 := by decide
/-- `8B 01 02 03`, SIG[11] = B3: addr = 1, 2, 4, ip = 5; without the flag 1, 2, 3 and 4. -/
theorem test_resolve_b3 :
    (fun d : State => (d.addr0, d.addr1, d.addr2, d.ip))
      ((started []).decoded 11 true (.b3 1 2 3)) = (1, 2, 4, 5) ∧
    (fun d : State => (d.addr0, d.addr1, d.addr2, d.ip))
      ((started []).decoded 11 false (.b3 1 2 3)) = (1, 2, 3, 4) := by decide
/-- `0B` (S4): Faulted(1, 0), ip = 0. -/
theorem test_illegal :
    seen (fun t => (t.ip, t.running, t.resultPort)) (step (started [0x0B])) =
      some (0, false, [.faulted 1 0]) := by decide
/-- `06 0C` (len 2): Faulted(2, 0); ip and the operand set as before. -/
theorem test_truncated :
    seen (fun t => (t.ip, t.curIdx, t.resultPort)) (step (started [0x06, 0x0C])) =
      some (0, 0, [.faulted 2 0]) := by decide

/-! ### COMPARE (D-CMP) -/

/-- Cells 7 and 5; 5 and 5; -32768 and 32767; -1 and 1: the order is signed. -/
theorem test_compare_flags :
    seen flags (step (started [0x06, 0x03, 0x05, 0x07, 0x00, 0x05, 0x00])) =
      some (false, true, true, false) ∧
    seen flags (step (started [0x06, 0x03, 0x05, 0x05, 0x00, 0x05, 0x00])) =
      some (true, false, false, false) ∧
    seen flags (step (started [0x06, 0x03, 0x05, 0x00, 0x80, 0xFF, 0x7F])) =
      some (false, true, false, true) ∧
    seen flags (step (started [0x06, 0x03, 0x05, 0xFF, 0xFF, 0x01, 0x00])) =
      some (false, true, false, true) := by decide
/-- `86 04 00 09 00 2A 00`: [4] = 0x2A00 and the embedded cell [3] = 9; ip = 4. `06 02 05 00` (len 4): addr[1] = 5 is out
of range; Faulted(3, 0). -/
theorem test_compare_inline_and_fault :
    seen (fun t => (flags t, t.addr1, t.ip)) (step (started [0x86, 0x04, 0x00, 0x09, 0x00, 0x2A, 0x00])) =
      some ((false, true, true, false), 3, 4) ∧
    seen (fun t => (flags t, t.resultPort)) (step (started [0x06, 0x02, 0x05, 0x00])) =
      some ((false, false, false, false), [.faulted 3 0]) := by decide

/-! ### Jumps (D-BR): at ip0 = 3, target 9 of an image of 16 bytes -/

/-- The image of P1 from offset 3 with the opcode `o`. -/
def jumpAt3 (o : Byte) (e n g l : Bool) : State :=
  (startedAt 3 [0x06, 0x0C, 0x0E, o, 0x09, 0x00, 0x00, 0x01, 0x00, 0x00, 0x07, 0x00, 0x05, 0x00,
    0x05, 0x00]).setFlags e n g l

theorem test_goto : seen (fun t => t.ip) (step (jumpAt3 0x01 false false false false)) = some 9 := by
  decide
/-- `01 FF FF`: Ended(0) at ip = 0xFFFF. -/
theorem test_goto_out :
    seen (fun t => (t.ip, t.resultPort)) (step (started [0x01, 0xFF, 0xFF])) =
      some (0xFFFF, [.ended 0]) := by decide
theorem test_goto_equals :
    seen (fun t => t.ip) (step (jumpAt3 0x02 true false false false)) = some 9 ∧
    seen (fun t => t.ip) (step (jumpAt3 0x02 false true true false)) = some 6 := by decide
/-- The last one: before any COMPARE neither eq nor ne is set. -/
theorem test_goto_not_equals :
    seen (fun t => t.ip) (step (jumpAt3 0x03 false true false true)) = some 9 ∧
    seen (fun t => t.ip) (step (jumpAt3 0x03 true false false false)) = some 6 ∧
    seen (fun t => t.ip) (step (jumpAt3 0x03 false false false false)) = some 6 := by decide
theorem test_goto_greater :
    seen (fun t => t.ip) (step (jumpAt3 0x04 false true true false)) = some 9 ∧
    seen (fun t => t.ip) (step (jumpAt3 0x04 false true false true)) = some 6 := by decide
theorem test_goto_less :
    seen (fun t => t.ip) (step (jumpAt3 0x05 false true false true)) = some 9 ∧
    seen (fun t => t.ip) (step (jumpAt3 0x05 true false false false)) = some 6 := by decide

/-! ### The stacks (D-STK, D-CALL) -/

/-- `87 00 34 08` (P2, cycle 1): pushes 0x0834, ip = 3. -/
theorem test_push_inline :
    seen (fun t => (Memory.read t.vstack 0, t.vsp, t.ip)) (step (started [0x87, 0x00, 0x34, 0x08])) =
      some (0x0834, 1, 3) := by decide
/-- A full stack: Faulted(4, 0), vsp = 4. `87 00` (len 2): Faulted(3, 0). -/
theorem test_push_faults :
    seen (fun t => (t.vsp, t.resultPort)) (step (withValues [1, 2, 3, 4] (started [0x07, 0x00]))) =
      some (4, [.faulted 4 0]) ∧
    seen (fun t => t.resultPort) (step (started [0x87, 0x00])) = some [.faulted 3 0] := by decide
/-- P4, cycle 2: POP.I at 2 writes 0x0011 over 4..5, ip = 5. -/
theorem test_pop_inline :
    seen (fun t => (Memory.read t.mem 4, Memory.read t.mem 5, t.vsp, t.ip))
      (step (withValues [0x0011]
        (startedAt 2 [0x07, 0x08, 0x88, 0x00, 0xFF, 0x0B, 0x2A, 0x00, 0x11, 0x00]))) =
      some (0x11, 0x00, 0, 5) := by decide
/-- `08 03 00 00`, vsp = 1: the cell check comes first. `08 02 00 00`, vsp = 0: Faulted(5, 0), ip = 2. -/
theorem test_pop_faults :
    seen (fun t => (t.vsp, t.resultPort)) (step (withValues [7] (started [0x08, 0x03, 0x00, 0x00]))) =
      some (1, [.faulted 3 0]) ∧
    seen (fun t => (t.ip, t.resultPort)) (step (started [0x08, 0x02, 0x00, 0x00])) =
      some (2, [.faulted 5 0]) := by decide
/-- `09 07 00`: cstack[0] = 3, ip = 7; with TARGET 7; `89 07 00`: 4. -/
theorem test_call :
    seen (fun t => (Memory.read t.cstack 0, t.csp, t.ip)) (step (started [0x09, 0x07, 0x00])) =
      some (3, 1, 7) ∧
    seen (fun t => Memory.read t.cstack 0) (step ((started [0x09, 0x07, 0x00]).setConfig
      { powerOnConfig with table := referenceTable, callPush := .target })) = some 7 ∧
    seen (fun t => Memory.read t.cstack 0) (step (started [0x89, 0x07, 0x00])) = some 4 := by decide
/-- A full call stack: Faulted(6, 0), csp = 4, ip = 3. -/
theorem test_call_full :
    seen (fun t => (t.csp, t.ip, t.resultPort))
      (step (withCalls [1, 2, 3, 4] (started [0x09, 0x07, 0x00]))) =
      some (4, 3, [.faulted 6 0]) := by decide
/-- `0A` at 11: to 3; on an empty stack Faulted(7, 11), ip = 12. -/
theorem test_return :
    seen (fun t => (t.csp, t.ip)) (step (withCalls [3]
      (startedAt 11 [0, 0, 0, 0, 0, 0, 0, 0, 0, 0, 0, 0x0A]))) = some (0, 3) ∧
    seen (fun t => (t.ip, t.resultPort))
      (step (startedAt 11 [0, 0, 0, 0, 0, 0, 0, 0, 0, 0, 0, 0x0A])) =
      some (12, [.faulted 7 11]) := by decide

/-! ### Host capabilities (46_capability.md rules R193 and R195), by actions a capability may take -/

/-- The write before a failing access stays; the one after it does not happen. -/
theorem test_actions_partial :
    (match runActions (started [0, 0]) [.setExit 5, .writeCell 0 0x1234, .readCell 1, .setExit 6] with
      | .raised k t => some (k, t.exit, Memory.read t.mem 0, Memory.read t.mem 1)
      | .returned _ => none) = some (.cellOutOfRange, 5, 0x34, 0x12) := by decide
/-- The stacks through their accessors, and a run ended by the capability. -/
theorem test_actions_stacks :
    (match runActions (started [0, 0]) [.pushValue 8, .pushCall 9, .popCall, .setRunning false] with
      | .returned t => some (t.vsp, Memory.read t.vstack 0, t.csp, t.running)
      | .raised _ _ => none) = some (1, 8, 0, false) := by decide

/-- A table whose row 11 is the capability `body`. -/
def givenTable (sig : Signature) (body : CapBody) : List Descriptor :=
  referenceTable ++ [⟨"EXT", .host sig body⟩]

/-- A run of `bytes` where row 11 is the capability `body`. -/
def startedWith (sig : Signature) (body : CapBody) (bytes : List Byte) : State :=
  (started bytes).setConfig { powerOnConfig with table := givenTable sig body }

/-- A capability that adds cell addr[1] to cell addr[0]: what rules R192 and R193 let it read and write. -/
def adder : CapBody :=
  .call (.readCell (.reg .addr0)) (.call (.readCell (.reg .addr1))
    (.call (.writeCell (.reg .addr0) (.op .add (.result 0) (.result 1))) .finish))

/-- Cells 5 and 7: 12 in cell addr[0], and ip advanced. With addr[1] out of range: Faulted(3, 0). -/
theorem test_given_capability :
    seen (fun t => (Memory.read t.mem 3, Memory.read t.mem 5, t.ip))
      (step (startedWith .b2 adder [0x0B, 3, 5, 5, 0, 7, 0])) = some (12, 7, 3) ∧
    seen (fun t => (Memory.read t.mem 3, t.resultPort))
      (step (startedWith .b2 adder [0x0B, 3, 6, 5, 0, 7, 0])) = some (5, [.faulted 3 0]) := by decide
/-- A capability that never returns hangs the block (rule R196, row U10): there is no next state. -/
theorem test_capability_hangs :
    step (startedWith .none (.branch (.reg .eq) .finish .hang) [0x0B]) = .fault .capabilityHang ∧
    seen (fun t => t.ip) (step ((startedWith .none (.branch (.reg .eq) .finish .hang)
      [0x0B, 0x0A]).setFlags true false false false)) = some 1 := ⟨rfl, by decide⟩

/-! ### The host's transactions (70_reset_and_hazards.md) -/

/-- EXIT with its WORD signature code 1 (rule R82), and a host row with the code 4. -/
def rawTable : List RawDescriptor := [⟨1, .reference .exit, "EXIT"⟩, ⟨4, .host .unknown, "MOTOR"⟩]

theorem test_register_table :
    seen (fun t => (t.cfg.table, t.hostReplies)) (step (State.reset.setPending [.registerTable rawTable])) =
      some ([⟨"EXIT", .reference .exit⟩, ⟨"MOTOR", .host .b3 .unknown⟩], [.tableRegistered]) := by decide
/-- Signature code 5 is refused, and so is a table of no rows (rule R241). -/
theorem test_register_refused :
    seen (fun t => (t.cfg.table, t.hostReplies))
      (step (State.reset.setPending [.registerTable [⟨5, .host .unknown, "X"⟩]])) = some ([], [.tableRefused]) ∧
    seen (fun t => t.hostReplies) (step (State.reset.setPending [.registerTable []])) =
      some [.tableRefused] := by decide
theorem test_load :
    seen (fun t => (t.len, Memory.read t.mem 1, t.hostReplies))
      (step (State.reset.setPending [.load [0x00, 0x2A, 0x00] 3])) =
      some (3, 0x2A, [.loaded]) := by decide
/-- 65 bytes into PROG_CAP = 64: refused, len and the image as before (rule R243). -/
theorem test_load_size_error :
    seen (fun t => (t.len, t.mem, t.hostReplies))
      (step (State.reset.setPending [.load (List.replicate 65 0x01) 65])) =
      some (0, [], [.loadSizeError]) := by decide
/-- RUN of an empty program: no cycle, Ended(0) (D-DEC). -/
theorem test_run_empty :
    seen (fun t => (t.phase, t.resultPort))
      (step { (started []) with phase := .idle, pending := [.run] }) =
      some (.ended, [.ended 0]) := by decide
/-- RUN after a fault starts afresh and keeps the image (rules R245 and R248). -/
theorem test_run_again :
    seen (fun t => (t.phase, t.ip, t.running, t.exit, t.faultKind, Memory.read t.mem 1))
      (step { (started [0x00, 0x2A, 0x00]) with
        phase := .faulted, faultKind := 5, running := false, ip := 7, exit := 9, pending := [.run] }) =
      some (.running, 0, true, 0, 0, 0x2A) := by decide
/-- Without a table RUN has no meaning. -/
theorem test_run_without_table :
    step (State.reset.setPending [.run]) = .refused .runWithoutTable := rfl

/-! ### The host's probe and the trace -/

/-- The instruction placed for the next step is the one that runs, right after reset. -/
theorem test_with_fetch_word :
    seen (fun t => (t.resultPort, t.ip)) (step (State.reset.withFetchWord 24 0x002A00)) =
      some ([.halted 42], 3) ∧
    seen (fun t => t.resultPort) (step (State.reset.withFetchWord 8 0x8B)) =
      some [.faulted 1 0] := by decide

/-- A trace event is emitted for EXIT (rule R109), with the latches and the phase before step 8; none for a fault. -/
theorem test_trace :
    seen (fun t => t.tracePort.map fun e => (e.idx, e.inl, e.snapshot.phase, e.snapshot.exit))
      (step (registerTrace (started [0x80, 0x2A, 0x00]))) = some [(0, true, .running, 42)] ∧
    seen (fun t => t.tracePort.length) (step (registerTrace (started [0x0A]))) = some 0 := by decide

/-! ### Witnesses: states that meet the hypotheses of the statements, per clause, at boundary values -/

theorem witness_DecodeOfEncode :
    (Instr.exit 0 true 0xFFFF).wellFormed referenceTable = true ∧
    (Instr.ext 11 true (.b3 1 2 3)).wellFormed (extTable .b3) = true ∧
    (Instr.illegal 11 true).wellFormed referenceTable = true := by decide

theorem witness_DecodeIsEncoding :
    decode referenceTable [0x88, 0x00, 0xFF] = .ok (.pop 8 true 0, [0xFF]) := by decide

theorem witness_InstructionLengthRule :
    referenceTable[((0x8A : Byte).extractLsb' 0 7).toNat]? = some ⟨"RETURN", .reference .ret⟩ ∧
    decode referenceTable (0x8A :: [0x01]) = .ok (.ret 10 true, [0x01]) := by decide

theorem witness_StepRunsTheDecodedInstruction :
    (started [0x0A]).CycleReady ∧
    decode (started [0x0A]).cfg.table ((started [0x0A]).fetchBytes (started [0x0A]).ip.toNat 4) =
      .ok (.ret 10 false, []) := by decide

/-- The operand bytes end at len. -/
theorem witness_StepFetchesFromTheImage :
    (started [0x01, 0x34, 0x12]).CycleReady ∧
    (started [0x01, 0x34, 0x12]).cfg.table[((Memory.read (started [0x01, 0x34, 0x12]).mem
      (started [0x01, 0x34, 0x12]).ip.toNat).extractLsb' 0 7).toNat]? =
        some ⟨"GOTO", .reference .goto⟩ ∧
    (started [0x01, 0x34, 0x12]).ip.toNat + 1 +
      (CapKind.reference .goto).signature.operandBytes ≤ (started [0x01, 0x34, 0x12]).len := by decide

/-- The index is TABLE_LEN itself. -/
theorem witness_InvalidOpcodeFaultsFirst :
    (started [0x8B]).CycleReady ∧
    (started [0x8B]).cfg.table.length ≤
      ((Memory.read (started [0x8B]).mem (started [0x8B]).ip.toNat).extractLsb' 0 7).toNat := by decide

/-- One byte short. -/
theorem witness_MissingOperandByteFaults :
    (started [0x01, 0x34]).CycleReady ∧
    (started [0x01, 0x34]).cfg.table[((Memory.read (started [0x01, 0x34]).mem
      (started [0x01, 0x34]).ip.toNat).extractLsb' 0 7).toNat]? = some ⟨"GOTO", .reference .goto⟩ ∧
    (started [0x01, 0x34]).len < (started [0x01, 0x34]).ip.toNat + 1 +
      (CapKind.reference .goto).signature.operandBytes := by decide

theorem witness_IpArithmeticNeverWraps : (started [0x0A]).Inv ∧ (started [0x0A]).CycleReady := by decide

/-- Not running; running with ip = len; running with ip = len - 1. -/
theorem witness_EndOfCycleCheck :
    ((started [0x0A]).setRun false 0).running = false ∧
    ((startedAt 1 [0x0A]).running = true ∧ (startedAt 1 [0x0A]).len ≤ (startedAt 1 [0x0A]).ip.toNat) ∧
    ((started [0x0A]).running = true ∧ (started [0x0A]).ip.toNat < (started [0x0A]).len) := by decide

/-- For the statements of EXIT and the jumps: a state where a cycle runs, with each flag as the jumps read it. -/
theorem witness_ExitEndsTheRun : (started [0x00, 0x2A, 0x00]).CycleReady := by decide
theorem witness_GotoSetsIp : (started [0x01, 0xFF, 0xFF]).CycleReady := by decide
theorem witness_GotoEqualsFollowsEq : (jumpAt3 0x02 true false false false).CycleReady := by decide
theorem witness_GotoNotEqualsFollowsNe : (jumpAt3 0x03 false true false true).CycleReady := by decide
theorem witness_GotoGreaterFollowsGt : (jumpAt3 0x04 false true true false).CycleReady := by decide
theorem witness_GotoLessFollowsLt : (jumpAt3 0x05 false true false true).CycleReady := by decide

/-- The right cell ends at len; then it is one byte past it; then the left one is. -/
theorem witness_CompareSetsTheFlags :
    ((started [0x06, 1, 2, 0]).CycleReady ∧ (slotAddr 1).toNat + 2 ≤ (started [0x06, 1, 2, 0]).len ∧
      (lastAddr (started [0x06, 1, 2, 0]).ip false 2 2).toNat + 2 ≤ (started [0x06, 1, 2, 0]).len) ∧
    ((started [0x86, 1, 2, 0]).CycleReady ∧
      (started [0x86, 1, 2, 0]).len <
        (lastAddr (started [0x86, 1, 2, 0]).ip true 2 2).toNat + 2) ∧
    (started [0x06, 3, 2, 0]).len < (slotAddr 3).toNat + 2 := by decide

theorem witness_CompareFlagOutcomes :
    ∃ t, (started [0x06, 3, 3, 5, 0]).CycleReady ∧
      exec (.compare 6 false 3 3) (started [0x06, 3, 3, 5, 0]) = .next t ∧ t.phase ≠ .faulted ∧
      (started [0x06, 3, 3, 5, 0]).cellAt (slotAddr 3) =
        (started [0x06, 3, 3, 5, 0]).cellAt (lastAddr (started [0x06, 3, 3, 5, 0]).ip false 2 3) :=
  ⟨_, by decide, rfl, by decide, by decide⟩

/-- The other two relations: 5 and 2, then 5 and 0x8000. -/
theorem witness_CompareFlagOutcomes_orders :
    (∃ t, (started [0x06, 3, 5, 5, 0, 2, 0]).CycleReady ∧
      exec (.compare 6 false 3 5) (started [0x06, 3, 5, 5, 0, 2, 0]) = .next t ∧ t.phase ≠ .faulted ∧
      ((started [0x06, 3, 5, 5, 0, 2, 0]).cellAt (slotAddr 5)).toInt <
        ((started [0x06, 3, 5, 5, 0, 2, 0]).cellAt (slotAddr 3)).toInt) ∧
    ∃ t, (started [0x06, 5, 3, 5, 0, 0, 0x80]).CycleReady ∧
      exec (.compare 6 false 5 3) (started [0x06, 5, 3, 5, 0, 0, 0x80]) = .next t ∧
      t.phase ≠ .faulted ∧
      ((started [0x06, 5, 3, 5, 0, 0, 0x80]).cellAt (slotAddr 5)).toInt <
        ((started [0x06, 5, 3, 5, 0, 0, 0x80]).cellAt (slotAddr 3)).toInt :=
  ⟨⟨_, by decide, rfl, by decide, by decide⟩, ⟨_, by decide, rfl, by decide, by decide⟩⟩

/-- The cell ends at len and one entry is free; the cell is one byte past len; the stack is full. -/
theorem witness_PushPushesTheCell :
    ((withValues [1, 2, 3] (started [0x07, 0])).CycleReady ∧ (lastAddr 0 false 1 0).toNat + 2 ≤ 2 ∧
      (withValues [1, 2, 3] (started [0x07, 0])).len = 2 ∧
      (withValues [1, 2, 3] (started [0x07, 0])).vsp <
        (withValues [1, 2, 3] (started [0x07, 0])).cfg.vstackCap) ∧
    (started [0x07, 1]).len < (lastAddr (started [0x07, 1]).ip false 1 1).toNat + 2 ∧
    ((withValues [1, 2, 3, 4] (started [0x07, 0])).CycleReady ∧
      (withValues [1, 2, 3, 4] (started [0x07, 0])).cfg.vstackCap ≤
        (withValues [1, 2, 3, 4] (started [0x07, 0])).vsp) := by decide

/-- One entry and the last cell; the cell one byte past len; an empty stack. -/
theorem witness_PopWritesTheCell :
    ((withValues [1] (started [0x08, 0])).CycleReady ∧
      (lastAddr (started [0x08, 0]).ip false 1 0).toNat + 2 ≤ (started [0x08, 0]).len ∧
      0 < (withValues [1] (started [0x08, 0])).vsp) ∧
    (started [0x08, 1]).len < (lastAddr (started [0x08, 1]).ip false 1 1).toNat + 2 ∧
    ((started [0x08, 0]).CycleReady ∧ (started [0x08, 0]).vsp = 0) := by decide

/-- One entry free, under both values of CALL_PUSH; a full stack. -/
theorem witness_CallPushesAndJumps :
    ((withCalls [1, 2, 3] (started [0x09, 7, 0])).CycleReady ∧
      (withCalls [1, 2, 3] (started [0x09, 7, 0])).csp < 4 ∧
      (withCalls [1, 2, 3] (started [0x09, 7, 0])).cfg.cstackCap = 4) ∧
    ((started [0x09, 7, 0]).setConfig
      { powerOnConfig with table := referenceTable, callPush := .target }).CycleReady ∧
    ((withCalls [1, 2, 3, 4] (started [0x09, 7, 0])).CycleReady ∧
      (withCalls [1, 2, 3, 4] (started [0x09, 7, 0])).cfg.cstackCap ≤
        (withCalls [1, 2, 3, 4] (started [0x09, 7, 0])).csp) := by decide

theorem witness_ReturnPopsIntoIp :
    ((withCalls [3] (started [0x0A])).CycleReady ∧ 0 < (withCalls [3] (started [0x0A])).csp) ∧
    ((started [0x0A]).CycleReady ∧ (started [0x0A]).csp = 0) := by decide

/-- A body that cannot hang; one that returns, one that raises, one that never returns; one that is not given. -/
theorem witness_HostCapabilityRunsItsActions :
    mayHang (bodyAt (givenTable .b2 adder) 11) = false ∧
    (∃ u, runBody 11 adder [] (startedWith .b2 adder [0x0B, 0, 1]) = some (.returned u)) ∧
    (∃ k u, runBody 11 adder [] (startedWith .b2 adder []) = some (.raised k u)) ∧
    runBody 11 (bodyAt (givenTable .none .hang) 11) [] (started [0x0B]) = none ∧
    bodyAt (extTable .b3) 11 = .unknown := ⟨by decide, ⟨_, rfl⟩, ⟨_, _, rfl⟩, rfl, rfl⟩

/-- A capability that is given, and one that is not. -/
theorem witness_HostCapabilityStaysInItsFrame :
    (∃ t, exec (.ext 11 false (.b2 3 5)) (startedWith .b2 adder [0x0B, 3, 5, 5, 0, 7, 0]) = .next t) ∧
    ∃ t, exec (.ext 11 false .none) (started [0x0B]) = .next t := ⟨⟨_, rfl⟩, ⟨_, rfl⟩⟩

theorem witness_HostCapabilityActionEffects :
    (∃ t, vPop (withValues [5] (started [])) = .ok (5, t)) ∧
    (∃ t, cPop (withCalls [6] (started [])) = .ok (6, t)) ∧
    (started []).vsp = 0 ∧ (started []).csp = 0 :=
  ⟨⟨_, rfl⟩, ⟨_, rfl⟩, rfl, rfl⟩

/-- A list whose second action raises; a call that raises and one that does not; each accessor's answer. -/
theorem witness_HostCapabilityPartialWritesStay :
    (runActions (started [0, 0]) [.setExit 5] = .returned ((started [0, 0]).setRun true 5) ∧
      capAction ((started [0, 0]).setRun true 5) (.readCell 1) = .error .cellOutOfRange) ∧
    capAction (started [0, 0]) (groundCall (started [0, 0]) [] (.readCell (.word 1))) =
      .error .cellOutOfRange ∧
    (∃ t, capAction (started [0, 0]) (groundCall (started [0, 0]) [] (.setExit (.word 5))) = .ok t) ∧
    cellRead (started [7, 1]) 0 = .ok 0x0107 ∧
    (∃ t, vPop (withValues [5] (started [])) = .ok (5, t)) ∧
    ∃ t, cPop (withCalls [6] (started [])) = .ok (6, t) :=
  ⟨⟨rfl, rfl⟩, rfl, ⟨_, rfl⟩, by decide, ⟨_, rfl⟩, ⟨_, rfl⟩⟩

theorem witness_JumpAndExitFrame :
    ∃ t, exec (.gotoLess 5 false 9) (jumpAt3 0x05 false true false true) = .next t := ⟨_, rfl⟩

/-- COMPARE that returns, and one that faults from a state that has not faulted. -/
theorem witness_CompareFrame :
    (∃ t, exec (.compare 6 false 0 1) (started [0x06, 0, 1]) = .next t ∧ t.phase ≠ .faulted) ∧
    ∃ t, exec (.compare 6 false 0 2) (started [0x06, 0, 2]) = .next t ∧
      (started [0x06, 0, 2]).phase ≠ .faulted ∧ t.phase = .faulted :=
  ⟨⟨_, rfl, by decide⟩, ⟨_, rfl, by decide, by decide⟩⟩

theorem witness_PushFrame :
    (∃ t, exec (.push 7 false 0) (started [0x07, 0, 0]) = .next t ∧ t.phase ≠ .faulted) ∧
    ∃ t, exec (.push 7 false 2) (started [0x07, 2, 0]) = .next t ∧
      (started [0x07, 2, 0]).phase ≠ .faulted ∧ t.phase = .faulted :=
  ⟨⟨_, rfl, by decide⟩, ⟨_, rfl, by decide, by decide⟩⟩

theorem witness_PopFrame :
    (∃ t, exec (.pop 8 false 0) (withValues [1] (started [0x08, 0, 0])) = .next t ∧
      t.phase ≠ .faulted) ∧
    ∃ t, exec (.pop 8 false 0) (started [0x08, 0, 0]) = .next t ∧
      (started [0x08, 0, 0]).phase ≠ .faulted ∧ t.phase = .faulted :=
  ⟨⟨_, rfl, by decide⟩, ⟨_, rfl, by decide, by decide⟩⟩

theorem witness_CallReturnFrame :
    (∃ t, exec (.call 9 false 0) (started [0x09, 0, 0]) = .next t ∧ t.phase ≠ .faulted) ∧
    ∃ t, exec (.ret 10 false) (started [0x0A]) = .next t ∧
      (started [0x0A]).phase ≠ .faulted ∧ t.phase = .faulted :=
  ⟨⟨_, rfl, by decide⟩, ⟨_, rfl, by decide, by decide⟩⟩

/-- For FlagsPersist, NoInstructionChangesTheTable and NoInstructionWritesPastLen: an instruction that may not write the
flags, a POP that writes the last cell, and a byte at len. -/
theorem witness_NoInstruction :
    mayWriteFlags (.pop 8 false 0) = false ∧
    (∃ t, exec (.pop 8 false 0) (withValues [1] (started [0x08, 0])) = .next t) ∧
    (withValues [1] (started [0x08, 0])).len ≤ 2 := ⟨by decide, ⟨_, rfl⟩, by decide⟩

/-- A cycle and a host transaction from states that meet the invariant. -/
theorem witness_EveryStepKeepsTheInvariant :
    ((started [0x01, 0, 0]).Inv ∧ ∃ t, step (started [0x01, 0, 0]) = .next t) ∧
    ((State.reset.setPending [.load [0x0A] 1]).Inv ∧
      ∃ t, step (State.reset.setPending [.load [0x0A] 1]) = .next t) :=
  ⟨⟨by decide, ⟨_, rfl⟩⟩, ⟨by decide, ⟨_, rfl⟩⟩⟩

theorem witness_RunStateAgreesWithPhase :
    (started [0x01, 0, 0]).RunStateOk ∧
    ((started [0x01, 0, 0]).phase = .running → (started [0x01, 0, 0]).CycleReady) ∧
    ∃ t, step (started [0x01, 0, 0]) = .next t := ⟨by decide, by decide, ⟨_, rfl⟩⟩

/-- A table with no capability that may hang, and one with such a row. -/
theorem witness_CyclesNeverStop :
    ((started [0x0B]).Inv ∧ (started [0x0B]).phase = .running ∧
      ∀ idx : BitVec 7, mayHang (bodyAt (started [0x0B]).cfg.table idx) = false) ∧
    ((startedWith .none .hang [0x0B]).Inv ∧ (startedWith .none .hang [0x0B]).phase = .running) := by
  decide

/-- A cycle that goes on, one that ends each way, and a RUN. -/
theorem witness_PhaseTransitions :
    (started [0x01, 0, 0]).CycleReady ∧
    seen (fun t => t.phase) (step (started [0x01, 0, 0])) = some .running ∧
    seen (fun t => t.phase) (step (started [0x00, 0, 0])) = some .halted ∧
    seen (fun t => t.phase) (step (started [0x01, 3, 0])) = some .ended ∧
    seen (fun t => t.phase) (step (started [0x0A])) = some .faulted ∧
    seen (fun t => t.phase) (step { (started [0x0A]) with phase := .idle, pending := [.run] }) =
      some .running := by decide

/-- For ResultReportedWhenARunEnds and TraceOncePerExecutedInstruction: cycles with an observer, one without a fault and
one with. -/
theorem witness_ResultAndTrace :
    ((registerTrace (started [0x00, 0, 0])).CycleReady ∧
      ∃ t, step (registerTrace (started [0x00, 0, 0])) = .next t ∧ t.phase ≠ .faulted) ∧
    ((registerTrace (started [0x0A])).CycleReady ∧
      ∃ t, step (registerTrace (started [0x0A])) = .next t ∧ t.phase = .faulted) :=
  ⟨⟨by decide, ⟨_, rfl, by decide⟩⟩, ⟨by decide, ⟨_, rfl, by decide⟩⟩⟩

theorem witness_FaultsRecordIpZero :
    (started [0x0A]).CycleReady ∧ ∃ t, step (started [0x0A]) = .next t ∧ t.phase = .faulted :=
  ⟨by decide, ⟨_, rfl, by decide⟩⟩

/-- An image that differs at len, and one step of a POP. -/
theorem witness_BytesPastLenAreNotObserved :
    (started [0x08, 0]).phase = .running ∧ (started [0x08, 0]).cfg.traceEn = false ∧
    (∀ a, a < (started [0x08, 0]).len →
      Memory.read (Memory.write (started [0x08, 0]).mem 2 0xFF) a =
        Memory.read (started [0x08, 0]).mem a) ∧
    ∃ t, step (started [0x08, 0]) = .next t := ⟨by decide, by decide, by decide, ⟨_, rfl⟩⟩

theorem witness_TraceIsOnlyObserved :
    (started [0x0A]).phase = .running ∧ ∃ t, step (started [0x0A]) = .next t := ⟨by decide, ⟨_, rfl⟩⟩

/-- The last cell, and the one a byte past it. -/
theorem witness_CellAccessorsAreChecked :
    (1 : Word).toNat + 2 ≤ (started [0, 0, 0]).len ∧ (started [0, 0, 0]).len < (2 : Word).toNat + 2 := by
  decide

/-- The cell one byte higher, and the neighbours that share no byte. -/
theorem witness_CellReadsWhatWasWritten :
    (∃ t, cellWrite (started [0, 0, 0, 0, 0, 0]) 2 0x1234 = .ok t) ∧
    ((3 : Word).toNat = (2 : Word).toNat + 1 ∧
      (3 : Word).toNat + 2 ≤ (started [0, 0, 0, 0, 0, 0]).len) ∧
    (0 : Word).toNat + 2 ≤ (2 : Word).toNat ∧ (2 : Word).toNat + 2 ≤ (4 : Word).toNat :=
  ⟨⟨_, rfl⟩, by decide, by decide, by decide⟩

theorem witness_PushThenPopCopiesACell :
    ∃ t u, (started [0x07, 4, 0x08, 5, 7, 8, 9]).CycleReady ∧
      (4 : Byte).toNat + 2 ≤ (started [0x07, 4, 0x08, 5, 7, 8, 9]).len ∧
      (5 : Byte).toNat + 2 ≤ (started [0x07, 4, 0x08, 5, 7, 8, 9]).len ∧
      (started [0x07, 4, 0x08, 5, 7, 8, 9]).vsp < (started [0x07, 4, 0x08, 5, 7, 8, 9]).cfg.vstackCap ∧
      exec (.push 7 false 4) (started [0x07, 4, 0x08, 5, 7, 8, 9]) = .next t ∧
      exec (.pop 8 false 5) t = .next u :=
  ⟨_, _, by decide, by decide, by decide, by decide, rfl, rfl⟩

/-- With something left above the depth by a nested pair. -/
theorem witness_CallThenReturnResumes :
    ∃ t w, (started [0x09, 3, 0, 0x0A]).CycleReady ∧
      (started [0x09, 3, 0, 0x0A]).csp < (started [0x09, 3, 0, 0x0A]).cfg.cstackCap ∧
      exec (.call 9 false 3) (started [0x09, 3, 0, 0x0A]) = .next t ∧
      (t.setCstack (Memory.write t.cstack 1 9) t.csp).csp = t.csp ∧
      (∀ n, n < t.csp → Memory.read (t.setCstack (Memory.write t.cstack 1 9) t.csp).cstack n =
        Memory.read t.cstack n) ∧
      exec (.ret 10 false) (t.setCstack (Memory.write t.cstack 1 9) t.csp) = .next w :=
  ⟨_, _, by decide, by decide, rfl, rfl, by decide, rfl⟩

/-- The embedded cell ends at len. -/
theorem witness_InlinePopRewritesTheNextOpcode :
    ∃ t, (withValues [0x0011] (started [0x88, 0, 0xFF, 0x0B])).Inv ∧
      (withValues [0x0011] (started [0x88, 0, 0xFF, 0x0B])).CycleReady ∧
      (withValues [0x0011] (started [0x88, 0, 0xFF, 0x0B])).cfg.inlineExtra = .one ∧
      (withValues [0x0011] (started [0x88, 0, 0xFF, 0x0B])).ip.toNat + 4 ≤
        (withValues [0x0011] (started [0x88, 0, 0xFF, 0x0B])).len ∧
      0 < (withValues [0x0011] (started [0x88, 0, 0xFF, 0x0B])).vsp ∧
      exec (.pop 8 true 0) (withValues [0x0011] (started [0x88, 0, 0xFF, 0x0B])) = .next t :=
  ⟨_, by decide, by decide, by decide, by decide, by decide, rfl⟩

/-- A LOAD of PROG_CAP bytes, and one of a byte more. -/
theorem witness_Load :
    State.reset.phase ≠ .running ∧
    (State.reset.setPending [.load [0x0A] 64]).pending = .load [0x0A] 64 :: [] ∧
    64 ≤ State.reset.cfg.progCap ∧
    (State.reset.setPending [.load [0x0A] 65]).pending = .load [0x0A] 65 :: [] ∧
    State.reset.cfg.progCap < 65 := by decide

/-- With a table and without. -/
theorem witness_RunStartWrites :
    State.reset.phase ≠ .running ∧ (State.reset.setPending [.run]).pending = .run :: [] ∧
    (State.reset.setPending [.run]).cfg.table = [] ∧
    ((State.reset.setPending [.run]).setConfig (started []).cfg).cfg.table ≠ [] := by decide

/-- No row, 129 rows, a bad code, EXIT with signature B1; 1 row and 128 rows that are legal. -/
theorem witness_TableRegistration :
    ([] : List RawDescriptor).length = 0 ∧
    128 < (List.replicate 129 (⟨0, .host .unknown, "X"⟩ : RawDescriptor)).length ∧
    (∃ r ∈ [(⟨5, .host .unknown, "X"⟩ : RawDescriptor)], 5 ≤ r.sigCode.toNat) ∧
    (∃ r ∈ [(⟨2, .reference .exit, "X"⟩ : RawDescriptor)], ∃ i, r.capability = .reference i ∧
      signatureCode i.signature ≠ r.sigCode.toNat) ∧
    (1 ≤ [(⟨1, .reference .exit, "EXIT"⟩ : RawDescriptor)].length ∧
      ∀ r ∈ [(⟨1, .reference .exit, "EXIT"⟩ : RawDescriptor)], r.sigCode.toNat < 5 ∧
        ∀ i, r.capability = .reference i → signatureCode i.signature = r.sigCode.toNat) ∧
    ((List.replicate 128 (⟨4, .host adder, "X"⟩ : RawDescriptor)).length ≤ 128 ∧
      ∀ r ∈ List.replicate 128 (⟨4, .host adder, "X"⟩ : RawDescriptor), r.sigCode.toNat < 5 ∧
        ∀ i, r.capability = .reference i → signatureCode i.signature = r.sigCode.toNat) := by
  refine ⟨rfl, by simp, by decide, ⟨_, List.mem_singleton_self _, _, rfl, by decide⟩,
    ⟨by decide, ?_⟩, by simp, ?_⟩
  · intro r hr
    rw [List.mem_singleton] at hr
    subst hr
    exact ⟨by decide, fun i hi => by injection hi with hi; subst hi; rfl⟩
  · intro r hr
    rw [List.eq_of_mem_replicate hr]
    exact ⟨by decide, fun i hi => by cases hi⟩

theorem witness_BetweenRunsTheStateIsKept :
    State.reset.phase ≠ .running ∧ State.reset.pending = [] ∧
    (State.reset.setPending [.registerTrace]).pending = .registerTrace :: [] := by decide

end Sys2Proof.Tests
end

/-! The checked cell accessors (20_memory.md rules R66 and R67). -/

namespace Sys2Proof.Machine

/-! ### Reading the image a cell write leaves -/

theorem Memory.read_writeCell_low (m : Memory 8) (n : Nat) (lo hi : Byte) :
    Memory.read (Memory.write (Memory.write m n lo) (n + 1) hi) n = lo := by
  rw [Memory.read_write_of_ne _ _ (by omega), Memory.read_write_self]

theorem Memory.read_writeCell_of_ne (m : Memory 8) {n b : Nat} (lo hi : Byte)
    (h0 : b ≠ n) (h1 : b ≠ n + 1) :
    Memory.read (Memory.write (Memory.write m n lo) (n + 1) hi) b = Memory.read m b := by
  rw [Memory.read_write_of_ne _ _ h1, Memory.read_write_of_ne _ _ h0]

/-! ### The accessors -/

/-- `CellRead` on both sides of the bounds check, the two bytes written out little-endian. -/
theorem cellRead_eq_ite (s : State) (a : Word) :
    cellRead s a = if s.len < a.toNat + 2 then .error .cellOutOfRange
      else .ok (Memory.read s.mem (a.toNat + 1) ++ Memory.read s.mem a.toNat) := by
  split
  case isTrue hout => exact cellRead_of_gt hout
  case isFalse hin => exact cellRead_of_le (Nat.not_lt.1 hin)

/-- An in-range `CellWrite` changes the image only, and of it the two bytes of the cell only. -/
theorem cellWrite_image {s : State} {a : Word} (v : Word) (h : a.toNat + 2 ≤ s.len) :
    ∃ m, cellWrite s a v = .ok (s.setMem m) ∧
      Memory.read m a.toNat = lowByte v ∧
      Memory.read m (a.toNat + 1) = highByte v ∧
      ∀ b, b ≠ a.toNat → b ≠ a.toNat + 1 → Memory.read m b = Memory.read s.mem b :=
  ⟨_, cellWrite_of_le v h, Memory.read_writeCell_low .., Memory.read_write_self ..,
    fun _ => Memory.read_writeCell_of_ne _ _ _⟩

/-- Settles O50: a read by the two sides of its bounds check, a write by the fault past `len` and by the image it
leaves below it. -/
theorem cellAccessorsAreChecked : Obligations.CellAccessorsAreChecked := fun s a v =>
  ⟨cellRead_eq_ite s a, cellWrite_of_gt v, cellWrite_image v⟩

end Sys2Proof.Machine

/-! What a decoding takes from its bytes: the operand bytes of the selected row's signature (30_encoding.md rules R83, R85
and R92), and from that the length of an instruction (rule R84). -/

namespace Sys2Proof

/-- `i` is an instruction of row `idx` with the flag `inl` whose operand bytes, of the signature `sig`, stand at the head
of `bs` and leave `rest`. -/
structure ReadsOperands (sig : Signature) (idx : BitVec 7) (inl : Bool) (bs : List Byte)
    (i : Instr) (rest : List Byte) : Prop where
  index : i.index = idx
  inline : i.inline = inl
  signature : i.operands.signature = sig
  bytes : bs = i.operands.bytes ++ rest

theorem decodeReference_readsOperands {r : RefInstr} {idx : BitVec 7} {inl : Bool}
    {bs rest : List Byte} {i : Instr} (h : decodeReference r idx inl bs = .ok (i, rest)) :
    ReadsOperands r.signature idx inl bs i rest := by
  cases r with
  | exit | goto | gotoEquals | gotoNotEquals | gotoGreater | gotoLess | call =>
    obtain ⟨v, rfl, rfl⟩ := takeWord_ok h
    exact ⟨rfl, rfl, rfl, rfl⟩
  | compare =>
    obtain ⟨s0, s1, rfl, rfl⟩ := takeTwoSlots_ok h
    exact ⟨rfl, rfl, rfl, rfl⟩
  | push | pop =>
    obtain ⟨s0, rfl, rfl⟩ := takeSlot_ok h
    exact ⟨rfl, rfl, rfl, rfl⟩
  | ret =>
    cases h
    exact ⟨rfl, rfl, rfl, rfl⟩

theorem decodeHost_readsOperands {sig : Signature} {idx : BitVec 7} {inl : Bool}
    {bs rest : List Byte} {i : Instr} (h : decodeHost sig idx inl bs = .ok (i, rest)) :
    ReadsOperands sig idx inl bs i rest := by
  cases sig with
  | none =>
    cases h
    exact ⟨rfl, rfl, rfl, rfl⟩
  | word =>
    obtain ⟨v, rfl, rfl⟩ := takeWord_ok (mk := fun v => .ext idx inl (.word v)) h
    exact ⟨rfl, rfl, rfl, rfl⟩
  | b1 =>
    obtain ⟨s0, rfl, rfl⟩ := takeSlot_ok h
    exact ⟨rfl, rfl, rfl, rfl⟩
  | b2 =>
    obtain ⟨s0, s1, rfl, rfl⟩ := takeTwoSlots_ok h
    exact ⟨rfl, rfl, rfl, rfl⟩
  | b3 =>
    obtain ⟨s0, s1, s2, rfl, rfl⟩ := takeThreeSlots_ok h
    exact ⟨rfl, rfl, rfl, rfl⟩

/-- From an opcode byte that selects a row, a decoding reads the operands of that row's signature. -/
theorem decode_readsOperands {table : List Descriptor} {o : Byte} {bs rest : List Byte}
    {i : Instr} {d : Descriptor} (hrow : table[(opcodeIndex o).toNat]? = some d)
    (h : decode table (o :: bs) = .ok (i, rest)) :
    ReadsOperands d.kind.signature (opcodeIndex o) (opcodeInline o) bs i rest := by
  obtain ⟨name, kind⟩ := d
  simp only [decode, hrow] at h
  cases kind with
  | reference r => exact decodeReference_readsOperands h
  | host sig body => exact decodeHost_readsOperands h

/-- The bytes such a decoding took, the opcode byte with them, are the instruction's encoding. -/
theorem ReadsOperands.cons_eq_encode_append {sig : Signature} {o : Byte} {bs rest : List Byte}
    {i : Instr} (h : ReadsOperands sig (opcodeIndex o) (opcodeInline o) bs i rest) :
    o :: bs = i.encode ++ rest := by
  simp [Instr.encode, h.index, h.inline, h.bytes]

theorem Operands.length_bytes (ops : Operands) :
    ops.bytes.length = ops.signature.operandBytes := by cases ops <;> rfl

/-- An encoding is the opcode byte and nb operand bytes, for every instruction at once. -/
theorem Instr.length_encode (i : Instr) :
    i.encode.length = 1 + i.operands.signature.operandBytes :=
  (Laws.EncodeLength.of_operands i i.operands.length_bytes).1

theorem InlineExtra.bytes_eq_ite (extra : InlineExtra) :
    extra.bytes = if extra = .one then 1 else 2 := by cases extra <;> rfl

/-- Settles O4: what a decoding takes is the encoding of its instruction, whose length the row's signature gives. -/
theorem instructionLengthRule : Obligations.InstructionLengthRule := by
  refine ⟨⟨rfl, rfl, rfl, rfl, rfl⟩, fun extra sig inl => ?_,
    fun table o bs rest i d hrow hdec => ?_⟩
  · rw [instrLength, InlineExtra.bytes_eq_ite]
  · have hread := decode_readsOperands hrow hdec
    rw [hread.cons_eq_encode_append, List.length_append, i.length_encode, hread.signature]

end Sys2Proof

/-! What steps 4 and 5 of a cycle write and leave (30_encoding.md rule R93, 40_dispatch.md rules R104 to R107). -/

namespace Sys2Proof.Machine

/-- A slot is zero-extended to a cell address (rule R105). -/
theorem slotAddr_eq_ofNat (b : Byte) : slotAddr b = BitVec.ofNat 16 b.toNat :=
  (BitVec.ofNat_toNat 16 b).symm

/-- The last operand's address with both of its sources written out (rules R105 and R106). -/
theorem lastAddr_eq_ite (ip0 : Word) (inl : Bool) (n : Nat) (b : Byte) :
    lastAddr ip0 inl n b =
      if inl then BitVec.ofNat 16 (ip0.toNat + 1 + n) else BitVec.ofNat 16 b.toNat := by
  rw [lastAddr, embeddedAddr, slotAddr_eq_ofNat]

theorem decoded_ip_eq_advanced (s : State) (idx : BitVec 7) (inl : Bool) (ops : Operands) :
    (s.decoded idx inl ops).ip = advanced s ops.signature.operandBytes inl :=
  advancedIp_eq s ops.signature inl

/-- Settles O10: for each signature the resolved operand set position by position, then the advance and the frame. -/
theorem operandsResolveBySignature : Obligations.OperandsResolveBySignature := by
  intro s idx inl v b0 b1 b2 inlineCell z
  refine ⟨?none, ?word, ?b1, ?b2, ?b3, fun ops => ⟨decoded_ip_eq_advanced s idx inl ops, ?frame⟩⟩
  case none => exact ⟨rfl, rfl, rfl, rfl, rfl, rfl⟩
  case word => exact ⟨rfl, rfl, rfl, rfl, rfl, rfl⟩
  case b1 => exact ⟨rfl, rfl, rfl, lastAddr_eq_ite s.ip inl 1 b0, rfl, rfl⟩
  case b2 => exact ⟨rfl, rfl, rfl, slotAddr_eq_ofNat b0, lastAddr_eq_ite s.ip inl 2 b1, rfl⟩
  case b3 =>
    exact ⟨rfl, rfl, rfl, slotAddr_eq_ofNat b0, slotAddr_eq_ofNat b1, lastAddr_eq_ite s.ip inl 3 b2⟩
  case frame =>
    simp [FlagsKept, ValueStackKept, CallStackKept, ImageKept, FaultRegsKept, HostSideKept]

end Sys2Proof.Machine

/-! Step 8 of a cycle, one equation per way it can go (40_dispatch.md rule R110). -/

namespace Sys2Proof.Machine

/-- `running` is looked at before ip: there is no hypothesis on ip here. -/
theorem endCheck_of_not_running {s : State} (hrun : s.running = false) :
    endCheck s = { s with phase := .halted, resultPort := .halted s.exit :: s.resultPort } :=
  if_pos hrun

theorem endCheck_of_running {s : State} (hrun : s.running = true) :
    endCheck s = if s.len ≤ s.ip.toNat then
      { s with phase := .ended, resultPort := .ended s.exit :: s.resultPort } else s :=
  if_neg (by simp [hrun])

theorem endCheck_of_len_le {s : State} (hrun : s.running = true) (hend : s.len ≤ s.ip.toNat) :
    endCheck s = { s with phase := .ended, resultPort := .ended s.exit :: s.resultPort } :=
  (endCheck_of_running hrun).trans (if_pos hend)

theorem endCheck_of_lt_len {s : State} (hrun : s.running = true) (hin : s.ip.toNat < s.len) :
    endCheck s = s :=
  (endCheck_of_running hrun).trans (if_neg (Nat.not_le.2 hin))

/-- Settles O12: the two tests of step 8 in their order, `running` and then ip against `len`. -/
theorem endOfCycleCheck : Obligations.EndOfCycleCheck := fun _ =>
  ⟨endCheck_of_not_running, endCheck_of_len_le, endCheck_of_lt_len⟩

end Sys2Proof.Machine

/-! EXIT (41_exit.md rule R130): how a cycle ends after a capability that returned, and what EXIT leaves. -/

namespace Sys2Proof.Machine

/-- A capability that returned within its frame leaves steps 7 and 8 to end the cycle. -/
theorem CapFrame.cycleEnds {s u : State} (h : CapFrame s u) :
    CycleEnds s (endCheck (emitTrace u)) :=
  (finishCycle_returned s.ip h.phase ⟨h.faultKind, h.faultIp⟩ h.tracePort h.resultPort h.cfg).1

/-- A cycle that ends with `running` clear halts, wherever its ip points (rule R110). -/
theorem CycleEnds.halted_of_not_running {s t : State} (h : CycleEnds s t)
    (hrun : t.running = false) :
    t.phase = .halted ∧ t.resultPort = .halted t.exit :: s.resultPort := by
  obtain ⟨_, _, hend⟩ := h
  rw [if_pos hrun] at hend
  exact Prod.mk.inj hend

/-- The state EXIT's capability leaves, before steps 7 and 8. -/
def State.exited (s : State) (idx : BitVec 7) (inl : Bool) (x : Word) : State :=
  (s.decoded idx inl (.word x)).setRun false x

@[simp] theorem State.exited_running (s : State) (idx : BitVec 7) (inl : Bool) (x : Word) :
    (s.exited idx inl x).running = false := rfl

@[simp] theorem State.exited_exit (s : State) (idx : BitVec 7) (inl : Bool) (x : Word) :
    (s.exited idx inl x).exit = x := rfl

@[simp] theorem State.exited_ip (s : State) (idx : BitVec 7) (inl : Bool) (x : Word) :
    (s.exited idx inl x).ip = advanced s 2 inl :=
  decoded_ip_eq_advanced s idx inl (.word x)

theorem State.exited_operandSet (s : State) (idx : BitVec 7) (inl : Bool) (x : Word) :
    OperandSetIs (s.exited idx inl x) idx inl x 0 0 0 := ⟨rfl, rfl, rfl, rfl, rfl, rfl⟩

theorem CapFrame.exited (s : State) (idx : BitVec 7) (inl : Bool) (x : Word) :
    CapFrame s (s.exited idx inl x) :=
  (CapFrame.decoded ..).trans (CapFrame.setRun ..)

theorem exec_exit (s : State) (idx : BitVec 7) (inl : Bool) (x : Word) :
    exec (.exit idx inl x) s = .next (endCheck (emitTrace (s.exited idx inl x))) := rfl

/-- Settles O13: the cycle ends by step 8's first test, since EXIT clears `running`; EXIT looks at neither stack, so
what they hold does not matter. -/
theorem exitEndsTheRun : Obligations.ExitEndsTheRun := by
  refine ⟨fun _ _ _ => ⟨rfl, rfl⟩, fun s idx inl x _ => ⟨_, exec_exit s idx inl x, ?_⟩⟩
  have hends := (CapFrame.exited s idx inl x).cycleEnds
  obtain ⟨hphase, hresult⟩ := hends.halted_of_not_running (by simp)
  refine ⟨by simp, by simp, hphase, by simpa using hresult, by simp, ?operands, hends, ?frame⟩
  case operands => simpa [OperandSetIs] using State.exited_operandSet s idx inl x
  case frame =>
    simp [State.exited, FlagsKept, ValueStackKept, CallStackKept, ImageKept, HostSideKept]

end Sys2Proof.Machine

/-! GOTO and the four conditional jumps (43_branch.md rules R150 to R155): the state a jump leaves, with the outcome of
its condition as a `Bool`, so that the five instructions differ only in the flag they read. -/

namespace Sys2Proof.Machine

/-- A cycle that ends with `running` set is ended by ip alone (rule R110). -/
theorem CycleEnds.phase_of_running {s t : State} (h : CycleEnds s t) (hrun : t.running = true) :
    t.phase = if t.len ≤ t.ip.toNat then .ended else s.phase := by
  obtain ⟨_, _, hend⟩ := h
  rw [if_neg (by simp [hrun])] at hend
  exact (congrArg Prod.fst hend).trans (apply_ite Prod.fst ..)

/-- The state a jump's capability leaves, before steps 7 and 8. -/
def State.jumped (s : State) (idx : BitVec 7) (inl : Bool) (v : Word) (taken : Bool) : State :=
  (s.decoded idx inl (.word v)).setIp (if taken then v else advanced s 2 inl)

@[simp] theorem State.jumped_ip (s : State) (idx : BitVec 7) (inl : Bool) (v : Word)
    (taken : Bool) :
    (s.jumped idx inl v taken).ip = if taken then v else advanced s 2 inl := rfl

theorem State.jumped_operandSet (s : State) (idx : BitVec 7) (inl : Bool) (v : Word)
    (taken : Bool) : OperandSetIs (s.jumped idx inl v taken) idx inl v 0 0 0 :=
  ⟨rfl, rfl, rfl, rfl, rfl, rfl⟩

theorem CapFrame.jumped (s : State) (idx : BitVec 7) (inl : Bool) (v : Word) (taken : Bool) :
    CapFrame s (s.jumped idx inl v taken) :=
  (CapFrame.decoded ..).trans (CapFrame.setIp ..)

/-- A jump that is not taken writes no ip: the advance of step 5 stands. -/
theorem State.jumped_false (s : State) (idx : BitVec 7) (inl : Bool) (v : Word) :
    s.jumped idx inl v false = s.decoded idx inl (.word v) :=
  congrArg (s.decoded idx inl (.word v)).setIp (decoded_ip_eq_advanced s idx inl (.word v)).symm

theorem capJumpIf_decoded (c : State → Bool) (s : State) (idx : BitVec 7) (inl : Bool)
    (v : Word) :
    capJumpIf c (s.decoded idx inl (.word v)) =
      .returned (s.jumped idx inl v (c (s.decoded idx inl (.word v)))) := by
  cases hc : c (s.decoded idx inl (.word v)) with
  | true => exact congrArg CapOutcome.returned (if_pos hc)
  | false => rw [State.jumped_false, capJumpIf, if_neg (by simp [hc])]

/-- The whole cycle of a jump. -/
def State.jumpCycle (s : State) (idx : BitVec 7) (inl : Bool) (v : Word) (taken : Bool) : State :=
  endCheck (emitTrace (s.jumped idx inl v taken))

theorem runCycle_capJumpIf (c : State → Bool) (s : State) (idx : BitVec 7) (inl : Bool)
    (v : Word) :
    runCycle idx inl (.word v) (capJumpIf c) s =
      s.jumpCycle idx inl v (c (s.decoded idx inl (.word v))) :=
  congrArg (finishCycle s.ip) (capJumpIf_decoded c s idx inl v)

@[simp] theorem State.jumpCycle_ip (s : State) (idx : BitVec 7) (inl : Bool) (v : Word)
    (taken : Bool) :
    (s.jumpCycle idx inl v taken).ip = if taken then v else advanced s 2 inl := by
  simp [State.jumpCycle]

/-- What every jump leaves, taken or not, besides ip. -/
def JumpFrame (s t : State) (idx : BitVec 7) (inl : Bool) (v : Word) : Prop :=
  OperandSetIs t idx inl v 0 0 0 ∧ CycleEnds s t ∧ t.running = s.running ∧ t.exit = s.exit ∧
  FlagsKept s t ∧ ValueStackKept s t ∧ CallStackKept s t ∧ ImageKept s t ∧ HostSideKept s t ∧
  t.draws = s.draws

theorem State.jumpCycle_frame (s : State) (idx : BitVec 7) (inl : Bool) (v : Word)
    (taken : Bool) : JumpFrame s (s.jumpCycle idx inl v taken) idx inl v := by
  refine ⟨?operands, (CapFrame.jumped s idx inl v taken).cycleEnds, ?kept⟩
  case operands =>
    simpa [State.jumpCycle, OperandSetIs] using s.jumped_operandSet idx inl v taken
  case kept =>
    simp [State.jumpCycle, State.jumped, FlagsKept, ValueStackKept, CallStackKept, ImageKept,
      HostSideKept]

/-- No jump clears `running`, so step 8 ends the cycle by its second test alone (rule R155). -/
theorem JumpFrame.phase_of_ready {s t : State} {idx : BitVec 7} {inl : Bool} {v : Word}
    (h : JumpFrame s t idx inl v) (hready : s.CycleReady) :
    t.phase = if s.len ≤ t.ip.toNat then .ended else .running := by
  obtain ⟨hphase, hrun, _⟩ := hready
  obtain ⟨_, hends, hkept, _, _, _, _, ⟨hlen, _⟩, _⟩ := h
  rw [hends.phase_of_running (hkept.trans hrun), hlen, hphase]

/-! ### The flag each instruction reads, at invocation (rules R150 to R154) -/

theorem exec_goto (s : State) (idx : BitVec 7) (inl : Bool) (v : Word) :
    exec (.goto idx inl v) s = .next (s.jumpCycle idx inl v true) :=
  congrArg Host.Outcome.next (runCycle_capJumpIf (fun _ => true) s idx inl v)

theorem exec_gotoEquals (s : State) (idx : BitVec 7) (inl : Bool) (v : Word) :
    exec (.gotoEquals idx inl v) s = .next (s.jumpCycle idx inl v s.eq) :=
  congrArg Host.Outcome.next (runCycle_capJumpIf (fun t => t.eq) s idx inl v)

theorem exec_gotoNotEquals (s : State) (idx : BitVec 7) (inl : Bool) (v : Word) :
    exec (.gotoNotEquals idx inl v) s = .next (s.jumpCycle idx inl v s.ne) :=
  congrArg Host.Outcome.next (runCycle_capJumpIf (fun t => t.ne) s idx inl v)

theorem exec_gotoGreater (s : State) (idx : BitVec 7) (inl : Bool) (v : Word) :
    exec (.gotoGreater idx inl v) s = .next (s.jumpCycle idx inl v s.gt) :=
  congrArg Host.Outcome.next (runCycle_capJumpIf (fun t => t.gt) s idx inl v)

theorem exec_gotoLess (s : State) (idx : BitVec 7) (inl : Bool) (v : Word) :
    exec (.gotoLess idx inl v) s = .next (s.jumpCycle idx inl v s.lt) :=
  congrArg Host.Outcome.next (runCycle_capJumpIf (fun t => t.lt) s idx inl v)

/-! ### The obligations -/

/-- Settles O14: the jump that is always taken; its target against `len` decides the phase. -/
theorem gotoSetsIp : Obligations.GotoSetsIp := by
  refine ⟨fun _ _ _ => ⟨rfl, rfl⟩, fun s idx inl v hready => ?_⟩
  have hip : (s.jumpCycle idx inl v true).ip = v := s.jumpCycle_ip idx inl v true
  have hframe := s.jumpCycle_frame idx inl v true
  have hphase := hframe.phase_of_ready hready
  rw [hip] at hphase
  exact ⟨_, exec_goto s idx inl v, hip, hphase, hframe⟩

/-- Settles O15: the jump follows eq. -/
theorem gotoEqualsFollowsEq : Obligations.GotoEqualsFollowsEq :=
  ⟨fun _ _ _ => ⟨rfl, rfl⟩, fun s idx inl v _ =>
    ⟨_, exec_gotoEquals s idx inl v, s.jumpCycle_ip .., s.jumpCycle_frame ..⟩⟩

/-- Settles O16: the jump follows ne, a register of its own; eq is not looked at, so both being clear at run start does
not matter. -/
theorem gotoNotEqualsFollowsNe : Obligations.GotoNotEqualsFollowsNe :=
  ⟨fun _ _ _ => ⟨rfl, rfl⟩, fun s idx inl v _ =>
    ⟨_, exec_gotoNotEquals s idx inl v, s.jumpCycle_ip .., s.jumpCycle_frame ..⟩⟩

/-- Settles O17: the jump follows gt. -/
theorem gotoGreaterFollowsGt : Obligations.GotoGreaterFollowsGt :=
  ⟨fun _ _ _ => ⟨rfl, rfl⟩, fun s idx inl v _ =>
    ⟨_, exec_gotoGreater s idx inl v, s.jumpCycle_ip .., s.jumpCycle_frame ..⟩⟩

/-- Settles O18: the jump follows lt. -/
theorem gotoLessFollowsLt : Obligations.GotoLessFollowsLt :=
  ⟨fun _ _ _ => ⟨rfl, rfl⟩, fun s idx inl v _ =>
    ⟨_, exec_gotoLess s idx inl v, s.jumpCycle_ip .., s.jumpCycle_frame ..⟩⟩

end Sys2Proof.Machine

/-! A cycle from how its capability ends (40_dispatch.md rule R101): steps 7 and 8 after one that returned; after one that
raised before it wrote anything, fault entry on top of the decode writes (60_exceptions.md rules R211 and R212). -/

namespace Sys2Proof.Machine

/-- Fault entry on the decoded state is what R211 and R212 ask of a fault in step 6. -/
theorem raiseFault_decoded (s : State) (idx : BitVec 7) (inl : Bool) (ops : Operands)
    (k : FaultKind) :
    FaultAfterDecode s (raiseFault k s.ip (s.decoded idx inl ops)) idx inl ops k.code := by
  refine ⟨?taken, ?operands, ?ip, ?kept⟩
  case taken => simp [FaultTaken]
  case operands => exact ⟨rfl, rfl, rfl, rfl, rfl, rfl⟩
  case ip => exact decoded_ip_eq_advanced s idx inl ops
  case kept =>
    simp [FlagsKept, ValueStackKept, CallStackKept, ImageKept, HostSideKept]

theorem exec_of_returned {i : Instr} {s u : State} {idx : BitVec 7} {inl : Bool}
    {ops : Operands} {cap : State → CapOutcome}
    (hexec : exec i s = .next (runCycle idx inl ops cap s))
    (hcap : cap (s.decoded idx inl ops) = .returned u) :
    exec i s = .next (endCheck (emitTrace u)) := by
  rw [hexec, runCycle, hcap, finishCycle]

/-- An instruction whose capability raises with nothing written yet. -/
theorem exec_faultAfterDecode {i : Instr} {s : State} {idx : BitVec 7} {inl : Bool}
    {ops : Operands} {cap : State → CapOutcome} {k : FaultKind}
    (hexec : exec i s = .next (runCycle idx inl ops cap s))
    (hcap : cap (s.decoded idx inl ops) = .raised k (s.decoded idx inl ops)) :
    ∃ t, exec i s = .next t ∧ FaultAfterDecode s t idx inl ops k.code := by
  refine ⟨_, hexec, ?_⟩
  rw [runCycle, hcap]
  exact raiseFault_decoded s idx inl ops k

end Sys2Proof.Machine

/-! PUSH and POP (44_stack.md rules R170 and R171): their capabilities on each side of the two checks, and the cycle they
share when neither raises. -/

namespace Sys2Proof.Machine

theorem exec_push (s : State) (idx : BitVec 7) (inl : Bool) (s0 : Byte) :
    exec (.push idx inl s0) s = .next (runCycle idx inl (.b1 s0) capPush s) := rfl

theorem exec_pop (s : State) (idx : BitVec 7) (inl : Bool) (s0 : Byte) :
    exec (.pop idx inl s0) s = .next (runCycle idx inl (.b1 s0) capPop s) := rfl

/-! ### The capabilities, the cell check first -/

theorem capPush_of_room {s : State} (hcell : s.addr0.toNat + 2 ≤ s.len)
    (hroom : s.vsp < s.cfg.vstackCap) :
    capPush s = .returned
      (s.setVstack (Memory.write s.vstack s.vsp (s.cellAt s.addr0)) (s.vsp + 1)) := by
  simp only [capPush, cellRead_of_le hcell, vPush_of_lt _ hroom]

theorem capPush_of_cell_out {s : State} (hcell : s.len < s.addr0.toNat + 2) :
    capPush s = .raised .cellOutOfRange s := by
  simp only [capPush, cellRead_of_gt hcell]

theorem capPush_of_full {s : State} (hcell : s.addr0.toNat + 2 ≤ s.len)
    (hfull : s.cfg.vstackCap ≤ s.vsp) : capPush s = .raised .vstackOverflow s := by
  simp only [capPush, cellRead_of_le hcell, vPush_of_ge _ hfull]

theorem cellInRange_iff (s : State) (a : Word) :
    s.cellInRange a = true ↔ a.toNat + 2 ≤ s.len := decide_eq_true_iff

/-- The image after the word `v` is put in the cell at `a`, low byte first (20_memory.md rule R67). -/
def State.imageWithCell (s : State) (a v : Word) : List Host.Cell :=
  Memory.write (Memory.write s.mem a.toNat (lowByte v)) (a.toNat + 1) (highByte v)

/-- The write that follows the pop cannot raise: the pop changes neither the address nor `len`. -/
theorem capPop_of_pos {s : State} (hcell : s.addr0.toNat + 2 ≤ s.len) (hpos : 0 < s.vsp) :
    capPop s = .returned ((s.setVstack s.vstack (s.vsp - 1)).setMem
      (s.imageWithCell s.addr0 (Memory.read s.vstack (s.vsp - 1)))) := by
  have hwrite (v : Word) : cellWrite (s.setVstack s.vstack (s.vsp - 1)) s.addr0 v =
      .ok ((s.setVstack s.vstack (s.vsp - 1)).setMem (s.imageWithCell s.addr0 v)) :=
    cellWrite_of_le v hcell
  rw [capPop, if_pos ((cellInRange_iff ..).2 hcell), vPop_of_pos hpos]
  simp only [hwrite]

theorem capPop_of_cell_out {s : State} (hcell : s.len < s.addr0.toNat + 2) :
    capPop s = .raised .cellOutOfRange s :=
  if_neg (mt (cellInRange_iff ..).1 (Nat.not_le.2 hcell))

theorem capPop_of_empty {s : State} (hcell : s.addr0.toNat + 2 ≤ s.len) (hempty : s.vsp = 0) :
    capPop s = .raised .vstackUnderflow s := by
  rw [capPop, if_pos ((cellInRange_iff ..).2 hcell), vPop_of_zero hempty]

/-! ### The cycle of one that does not raise -/

/-- The whole cycle of an instruction with one cell operand whose capability leaves the value stack `st` of depth `sp`
and the image `m`. -/
def State.stackCycle (s : State) (idx : BitVec 7) (inl : Bool) (s0 : Byte)
    (st : List (Nat × Word)) (sp : Nat) (m : List Host.Cell) : State :=
  endCheck (emitTrace (((s.decoded idx inl (.b1 s0)).setVstack st sp).setMem m))

section
variable (s : State) (idx : BitVec 7) (inl : Bool) (s0 : Byte) (st : List (Nat × Word))
  (sp : Nat) (m : List Host.Cell)

@[simp] theorem State.stackCycle_vsp : (s.stackCycle idx inl s0 st sp m).vsp = sp := by
  simp [State.stackCycle]

@[simp] theorem State.stackCycle_vstack : (s.stackCycle idx inl s0 st sp m).vstack = st := by
  simp [State.stackCycle]

@[simp] theorem State.stackCycle_mem : (s.stackCycle idx inl s0 st sp m).mem = m := by
  simp [State.stackCycle]

@[simp] theorem State.stackCycle_len : (s.stackCycle idx inl s0 st sp m).len = s.len := by
  simp [State.stackCycle]

@[simp] theorem State.stackCycle_ip :
    (s.stackCycle idx inl s0 st sp m).ip = advanced s 1 inl := by
  calc (s.stackCycle idx inl s0 st sp m).ip
      = (s.decoded idx inl (.b1 s0)).ip := by simp [State.stackCycle]
    _ = advanced s 1 inl := decoded_ip_eq_advanced s idx inl (.b1 s0)

theorem State.stackCycle_operandSet :
    OperandSetIs (s.stackCycle idx inl s0 st sp m) idx inl 0 (lastAddr s.ip inl 1 s0) 0 0 := by
  simp [State.stackCycle, OperandSetIs, resolvedImm, resolvedAddr0, resolvedAddr1, resolvedAddr2]

theorem State.stackCycle_cycleEnds : CycleEnds s (s.stackCycle idx inl s0 st sp m) :=
  (finishCycle_returned s.ip rfl ⟨rfl, rfl⟩ rfl rfl rfl).1

/-- The registers neither PUSH nor POP writes. -/
theorem State.stackCycle_runRegs :
    (s.stackCycle idx inl s0 st sp m).running = s.running ∧
      (s.stackCycle idx inl s0 st sp m).exit = s.exit ∧
      FlagsKept s (s.stackCycle idx inl s0 st sp m) ∧
      CallStackKept s (s.stackCycle idx inl s0 st sp m) := by
  simp [State.stackCycle, FlagsKept, CallStackKept]

theorem State.stackCycle_hostSide :
    HostSideKept s (s.stackCycle idx inl s0 st sp m) ∧
      (s.stackCycle idx inl s0 st sp m).draws = s.draws := by
  simp [State.stackCycle, HostSideKept]

end

section
variable {s : State} {inl : Bool} {s0 : Byte} (idx : BitVec 7)

/-- PUSH with its cell in range and room: only the value stack moves. -/
theorem exec_push_of_room (hcell : (lastAddr s.ip inl 1 s0).toNat + 2 ≤ s.len)
    (hroom : s.vsp < s.cfg.vstackCap) :
    exec (.push idx inl s0) s = .next (s.stackCycle idx inl s0
      (Memory.write s.vstack s.vsp (s.cellAt (lastAddr s.ip inl 1 s0))) (s.vsp + 1) s.mem) :=
  exec_of_returned (exec_push s idx inl s0) (capPush_of_room hcell hroom)

/-- POP with its cell in range and an entry: the depth and the cell. -/
theorem exec_pop_of_pos (hcell : (lastAddr s.ip inl 1 s0).toNat + 2 ≤ s.len)
    (hpos : 0 < s.vsp) :
    exec (.pop idx inl s0) s = .next (s.stackCycle idx inl s0 s.vstack (s.vsp - 1)
      (s.imageWithCell (lastAddr s.ip inl 1 s0) (Memory.read s.vstack (s.vsp - 1)))) :=
  exec_of_returned (exec_pop s idx inl s0) (capPop_of_pos hcell hpos)

end

/-! ### The obligations -/

/-- Settles O21: the cell's word on top when both checks pass, else the fault of the first that fails. -/
theorem pushPushesTheCell : Obligations.PushPushesTheCell := by
  refine ⟨fun _ _ => ⟨rfl, rfl⟩, fun s idx inl s0 _ => ⟨fun hcell hroom => ?pushed,
    fun hcell => exec_faultAfterDecode (exec_push ..) (capPush_of_cell_out hcell),
    fun hcell hfull => exec_faultAfterDecode (exec_push ..) (capPush_of_full hcell hfull)⟩⟩
  case pushed =>
    obtain ⟨hrun, hexit, hflags, hcalls⟩ := s.stackCycle_runRegs idx inl s0
      (Memory.write s.vstack s.vsp (s.cellAt (lastAddr s.ip inl 1 s0))) (s.vsp + 1) s.mem
    refine ⟨_, exec_push_of_room idx hcell hroom, s.stackCycle_vsp .., ?top, fun n hn => ?below,
      s.stackCycle_ip .., s.stackCycle_operandSet .., s.stackCycle_cycleEnds .., hrun, hexit,
      hflags, hcalls, ?image, s.stackCycle_hostSide ..⟩
    case top =>
      rw [State.stackCycle_vstack, Memory.read_write_self]
      rfl
    case below => rw [State.stackCycle_vstack, Memory.read_write_of_ne _ _ hn]
    case image => simp [ImageKept]

/-- Settles O22: the popped word in the cell, byte by byte, when both checks pass, else the fault of the first that
fails. -/
theorem popWritesTheCell : Obligations.PopWritesTheCell := by
  refine ⟨fun _ _ => ⟨rfl, rfl⟩, fun s idx inl s0 _ => ⟨fun hcell hpos => ?popped,
    fun hcell => exec_faultAfterDecode (exec_pop ..) (capPop_of_cell_out hcell),
    fun hcell hempty => exec_faultAfterDecode (exec_pop ..) (capPop_of_empty hcell hempty)⟩⟩
  case popped =>
    obtain ⟨hrun, hexit, hflags, hcalls⟩ := s.stackCycle_runRegs idx inl s0 s.vstack (s.vsp - 1)
      (s.imageWithCell (lastAddr s.ip inl 1 s0) (Memory.read s.vstack (s.vsp - 1)))
    refine ⟨_, exec_pop_of_pos idx hcell hpos, s.stackCycle_vsp .., fun n _ => ?below, ?low, ?high,
      ⟨s.stackCycle_len .., fun b hlow hhigh => ?outside⟩, s.stackCycle_ip ..,
      s.stackCycle_operandSet .., s.stackCycle_cycleEnds .., hrun, hexit, hflags, hcalls,
      s.stackCycle_hostSide ..⟩
    case below => rw [State.stackCycle_vstack]
    case low =>
      rw [State.stackCycle_mem]
      exact Memory.read_writeCell_low ..
    case high =>
      rw [State.stackCycle_mem]
      exact Memory.read_write_self ..
    case outside =>
      rw [State.stackCycle_mem]
      exact Memory.read_writeCell_of_ne _ _ _ hlow hhigh

end Sys2Proof.Machine

/-! CALL and RETURN (45_call.md rules R180 and R181): their capabilities on each side of the depth check, and the cycle
they share when neither raises. -/

namespace Sys2Proof.Machine

theorem exec_call (s : State) (idx : BitVec 7) (inl : Bool) (v : Word) :
    exec (.call idx inl v) s = .next (runCycle idx inl (.word v) capCall s) := rfl

theorem exec_ret (s : State) (idx : BitVec 7) (inl : Bool) :
    exec (.ret idx inl) s = .next (runCycle idx inl .none capReturn s) := rfl

/-! ### The capabilities -/

theorem capCall_of_room {s : State} (hroom : s.csp < s.cfg.cstackCap) :
    capCall s = .returned
      ((s.setCstack (Memory.write s.cstack s.csp (continuation s)) (s.csp + 1)).setIp s.imm) := by
  simp only [capCall, cPush_of_lt _ hroom]

theorem capCall_of_full {s : State} (hfull : s.cfg.cstackCap ≤ s.csp) :
    capCall s = .raised .cstackOverflow s := by
  simp only [capCall, cPush_of_ge _ hfull]

theorem capReturn_of_pos {s : State} (hpos : 0 < s.csp) :
    capReturn s = .returned
      ((s.setCstack s.cstack (s.csp - 1)).setIp (Memory.read s.cstack (s.csp - 1))) := by
  simp only [capReturn, cPop_of_pos hpos]

theorem capReturn_of_empty {s : State} (hempty : s.csp = 0) :
    capReturn s = .raised .cstackUnderflow s := by
  simp only [capReturn, cPop_of_zero hempty]

theorem continuation_eq_ite (s : State) :
    continuation s = if s.cfg.callPush = .returnAddr then s.ip else s.imm := by
  cases h : s.cfg.callPush <;> simp [continuation, h]

/-- What CALL pushes: under RETURN_ADDR the advance of the whole instruction, inline bytes counted. -/
theorem continuation_decoded (s : State) (idx : BitVec 7) (inl : Bool) (v : Word) :
    continuation (s.decoded idx inl (.word v)) =
      if s.cfg.callPush = .returnAddr then advanced s 2 inl else v := by
  rw [continuation_eq_ite, decoded_ip_eq_advanced]
  rfl

/-! ### The cycle of one that does not raise -/

/-- The whole cycle of an instruction whose capability leaves the call stack `st` of depth `sp` and goes to `dest`. -/
def State.callCycle (s : State) (idx : BitVec 7) (inl : Bool) (ops : Operands)
    (st : List (Nat × Word)) (sp : Nat) (dest : Word) : State :=
  endCheck (emitTrace (((s.decoded idx inl ops).setCstack st sp).setIp dest))

/-- What CALL and RETURN leave besides ip and the call stack. -/
def CallCycleFrame (s t : State) (idx : BitVec 7) (inl : Bool) (ops : Operands) : Prop :=
  OperandSetIs t idx inl (resolvedImm ops) (resolvedAddr0 s.ip inl ops)
    (resolvedAddr1 s.ip inl ops) (resolvedAddr2 s.ip inl ops) ∧
  CycleEnds s t ∧ t.running = s.running ∧ t.exit = s.exit ∧ FlagsKept s t ∧ ValueStackKept s t ∧
  ImageKept s t ∧ HostSideKept s t ∧ t.draws = s.draws

section
variable (s : State) (idx : BitVec 7) (inl : Bool) (ops : Operands) (st : List (Nat × Word))
  (sp : Nat) (dest : Word)

@[simp] theorem State.callCycle_csp : (s.callCycle idx inl ops st sp dest).csp = sp := by
  simp [State.callCycle]

@[simp] theorem State.callCycle_cstack : (s.callCycle idx inl ops st sp dest).cstack = st := by
  simp [State.callCycle]

@[simp] theorem State.callCycle_ip : (s.callCycle idx inl ops st sp dest).ip = dest := by
  simp [State.callCycle]

theorem State.callCycle_frame :
    CallCycleFrame s (s.callCycle idx inl ops st sp dest) idx inl ops := by
  refine ⟨?operands, ?ends, ?kept⟩
  case operands => simp [State.callCycle, OperandSetIs]
  case ends => exact (finishCycle_returned s.ip rfl ⟨rfl, rfl⟩ rfl rfl rfl).1
  case kept => simp [State.callCycle, FlagsKept, ValueStackKept, ImageKept, HostSideKept]

/-- Neither instruction clears `running`, so where it goes decides the phase (rule R110). -/
theorem State.callCycle_phase (hready : s.CycleReady) :
    (s.callCycle idx inl ops st sp dest).phase =
      if s.len ≤ dest.toNat then .ended else .running := by
  obtain ⟨hphase, hrun, _⟩ := hready
  obtain ⟨_, hends, hkept, _, _, _, ⟨hlen, _⟩, _⟩ :=
    s.callCycle_frame idx inl ops st sp dest
  rw [hends.phase_of_running (hkept.trans hrun), hlen, hphase, State.callCycle_ip]

end

section
variable {s : State} (idx : BitVec 7) (inl : Bool)

theorem exec_call_of_room (v : Word) (hroom : s.csp < s.cfg.cstackCap) :
    exec (.call idx inl v) s = .next (s.callCycle idx inl (.word v)
      (Memory.write s.cstack s.csp (if s.cfg.callPush = .returnAddr then advanced s 2 inl else v))
      (s.csp + 1) v) := by
  rw [← continuation_decoded s idx inl v]
  exact exec_of_returned (exec_call s idx inl v) (capCall_of_room hroom)

theorem exec_ret_of_pos (hpos : 0 < s.csp) :
    exec (.ret idx inl) s = .next (s.callCycle idx inl .none s.cstack (s.csp - 1)
      (Memory.read s.cstack (s.csp - 1))) :=
  exec_of_returned (exec_ret s idx inl) (capReturn_of_pos hpos)

end

/-! ### The obligations -/

/-- Settles O23: with room the continuation goes on top and ip to the target, else the overflow fault. -/
theorem callPushesAndJumps : Obligations.CallPushesAndJumps := by
  refine ⟨fun _ _ _ => ⟨rfl, rfl⟩, fun s idx inl v hready => ⟨fun hroom => ?called,
    fun hfull => exec_faultAfterDecode (exec_call ..) (capCall_of_full hfull)⟩⟩
  case called =>
    refine ⟨_, exec_call_of_room idx inl v hroom, s.callCycle_csp .., ?top, fun n hn => ?below,
      s.callCycle_ip .., s.callCycle_phase _ _ _ _ _ _ hready, s.callCycle_frame ..⟩
    case top => rw [State.callCycle_cstack, Memory.read_write_self]
    case below => rw [State.callCycle_cstack, Memory.read_write_of_ne _ _ hn]

/-- Settles O24: with an entry ip is the top one, which the pop leaves in the storage, else the underflow fault. -/
theorem returnPopsIntoIp : Obligations.ReturnPopsIntoIp := by
  refine ⟨fun _ => ⟨rfl, rfl⟩, fun s idx inl hready => ⟨fun hpos => ?returned,
    fun hempty => exec_faultAfterDecode (exec_ret ..) (capReturn_of_empty hempty)⟩⟩
  case returned =>
    refine ⟨_, exec_ret_of_pos idx inl hpos, s.callCycle_ip .., s.callCycle_csp ..,
      fun n _ => ?below, ?phase, s.callCycle_frame ..⟩
    case below => rw [State.callCycle_cstack]
    case phase => rw [State.callCycle_ip, s.callCycle_phase _ _ _ _ _ _ hready]

end Sys2Proof.Machine

/-! LOAD (70_reset_and_hazards.md rules R242 to R244): the step that serves a waiting transaction, and what a LOAD writes on
each side of its size check. -/

namespace Sys2Proof.Machine

theorem step_of_not_running {s : State} (hout : s.phase ≠ .running) : step s = betweenRuns s := by
  cases hphase : s.phase with
  | running => exact absurd hphase hout
  | idle | halted | ended | faulted => simp only [step, hphase]

/-- Outside a run the oldest waiting transaction is taken from the queue and served. -/
theorem step_of_pending {s : State} {c : HostCmd} {rest : List HostCmd}
    (hout : s.phase ≠ .running) (hpend : s.pending = c :: rest) :
    step s = serve (s.setPending rest) c := by
  simp only [step_of_not_running hout, betweenRuns, hpend]

theorem step_of_pending_load {s : State} {bytes : List Byte} {n : Nat} {rest : List HostCmd}
    (hout : s.phase ≠ .running) (hpend : s.pending = .load bytes n :: rest) :
    step s = .next (load bytes n (s.setPending rest)) :=
  step_of_pending hout hpend

/-! ### The two sides of the size check -/

/-- The image a LOAD leaves: its bytes from address 0 up (rule R244). -/
def State.loadedImage (s : State) (bytes : List Byte) (n : Nat) : List Host.Cell :=
  Memory.writeList s.mem 0 (loadBytes bytes n s.draws)

theorem load_of_le {s : State} {n : Nat} (bytes : List Byte) (hfits : n ≤ s.cfg.progCap) :
    load bytes n s = ((s.setImage (s.loadedImage bytes n) n).countDraw).reply .loaded :=
  if_pos hfits

theorem load_of_lt {s : State} {n : Nat} (bytes : List Byte) (hlarge : s.cfg.progCap < n) :
    load bytes n s = s.reply .loadSizeError :=
  if_neg (Nat.not_le.2 hlarge)

/-! ### The image a LOAD leaves -/

theorem getElem?_loadBytes {bytes : List Byte} {n a : Nat} {b : Byte} (draw : Nat) (ha : a < n)
    (hb : bytes[a]? = some b) : (loadBytes bytes n draw)[a]? = some b := by
  simp [loadBytes, ha, hb]

theorem State.read_loadedImage (s : State) {bytes : List Byte} {n a : Nat} {b : Byte} (ha : a < n)
    (hb : bytes[a]? = some b) : Memory.read (s.loadedImage bytes n) a = b := by
  rw [State.loadedImage, Memory.read_writeList, if_pos (Nat.zero_le a), Nat.sub_zero,
    getElem?_loadBytes _ ha hb, Option.getD_some]

/-! ### The obligations -/

/-- Settles O56: the step sets the image, `len`, the queue and the reply; the bytes supplied below `n` read back from
that image. -/
theorem loadWritesOnlyTheImage : Obligations.LoadWritesOnlyTheImage := by
  intro s bytes n rest hout hpend hfits
  have hserved := step_of_pending_load hout hpend
  rw [load_of_le (s := s.setPending rest) bytes hfits] at hserved
  exact ⟨_, hserved, rfl, fun _ _ => (s.setPending rest).read_loadedImage, rfl, rfl, rfl, rfl,
    rfl, rfl⟩

/-- Settles O57: the size check fails, so serving the transaction only answers it. -/
theorem loadSizeErrorChangesNothing : Obligations.LoadSizeErrorChangesNothing := by
  intro s bytes n rest hout hpend hlarge
  rw [step_of_pending_load hout hpend, load_of_lt (s := s.setPending rest) bytes hlarge]
  rfl

end Sys2Proof.Machine

/-! The decoder read both ways (30_encoding.md rules R81 to R92): one equation for each thing the opcode byte can select,
the round trip, and when bytes are missing. -/

namespace Sys2Proof

/-! ### The three rows an opcode byte can select -/

theorem decode_of_reference {table : List Descriptor} {o : Byte} {d : Descriptor} {r : RefInstr}
    (hrow : table[(opcodeIndex o).toNat]? = some d) (hkind : d.kind = .reference r)
    (bs : List Byte) :
    decode table (o :: bs) = decodeReference r (opcodeIndex o) (opcodeInline o) bs := by
  simp only [decode, hrow, hkind]

theorem decode_of_host {table : List Descriptor} {o : Byte} {d : Descriptor} {sig : Signature}
    {body : CapBody} (hrow : table[(opcodeIndex o).toNat]? = some d)
    (hkind : d.kind = .host sig body) (bs : List Byte) :
    decode table (o :: bs) = decodeHost sig (opcodeIndex o) (opcodeInline o) bs := by
  simp only [decode, hrow, hkind]

theorem decode_of_no_row {table : List Descriptor} {o : Byte}
    (hrow : table.length ≤ (opcodeIndex o).toNat) (bs : List Byte) :
    decode table (o :: bs) = .ok (.illegal (opcodeIndex o) (opcodeInline o), bs) := by
  simp only [decode, List.getElem?_eq_none hrow]

/-! ### Decoding an encoding -/

theorem Instr.encode_append (i : Instr) (rest : List Byte) :
    i.encode ++ rest = opcodeByte i.inline i.index :: (i.operands.bytes ++ rest) := rfl

section
variable (table : List Descriptor) (i : Instr) (rest : List Byte)

/-- The decoder finds the row of an encoded reference instruction and goes on with its operand bytes. -/
theorem decode_encode_of_reference {r : RefInstr}
    (hrow : rowIs table i.index (.reference r) = true) :
    decode table (i.encode ++ rest) =
      decodeReference r i.index i.inline (i.operands.bytes ++ rest) := by
  obtain ⟨d, hd, hkind⟩ := rowIs_iff.1 hrow
  rw [i.encode_append, decode_of_reference (by simpa using hd) hkind, opcodeIndex_opcodeByte,
    opcodeInline_opcodeByte]

theorem decode_encode_of_host {sig : Signature} (hrow : rowIsHost table i.index sig = true) :
    decode table (i.encode ++ rest) =
      decodeHost sig i.index i.inline (i.operands.bytes ++ rest) := by
  obtain ⟨d, body, hd, hkind⟩ := rowIsHost_iff.1 hrow
  rw [i.encode_append, decode_of_host (by simpa using hd) hkind, opcodeIndex_opcodeByte,
    opcodeInline_opcodeByte]

theorem decode_encode_of_no_row (hrow : table.length ≤ i.index.toNat) :
    decode table (i.encode ++ rest) =
      .ok (.illegal i.index i.inline, i.operands.bytes ++ rest) := by
  rw [i.encode_append, decode_of_no_row (by simpa using hrow), opcodeIndex_opcodeByte,
    opcodeInline_opcodeByte]

end

theorem decodeHost_bytes (idx : BitVec 7) (inl : Bool) (ops : Operands) (rest : List Byte) :
    decodeHost ops.signature idx inl (ops.bytes ++ rest) = .ok (.ext idx inl ops, rest) := by
  cases ops with
  | word v => exact takeWord_bytes (fun v => .ext idx inl (.word v)) v rest
  | none | b1 | b2 | b3 => rfl

/-- Settles O1: the row selects the operand reader, which reads back what the encoder wrote. -/
theorem decodeOfEncode : Obligations.DecodeOfEncode := by
  intro table i rest hwf
  have hreference {r} := decode_encode_of_reference table i rest (r := r)
  have hhost {sig} := decode_encode_of_host table i rest (sig := sig)
  have hnone := decode_encode_of_no_row table i rest
  cases i with
  | exit | goto | gotoEquals | gotoNotEquals | gotoGreater | gotoLess | call =>
    exact (hreference hwf).trans (takeWord_bytes ..)
  | compare | push | pop | ret => exact hreference hwf
  | ext idx inl ops => exact (hhost hwf).trans (decodeHost_bytes idx inl ops rest)
  | illegal idx inl => exact hnone (of_decide_eq_true hwf)

/-! ### What a decoding answers -/

theorem decodeReference_wellFormed {table : List Descriptor} {r : RefInstr} {idx : BitVec 7}
    {inl : Bool} {bs rest : List Byte} {i : Instr} (hrow : rowIs table idx (.reference r) = true)
    (h : decodeReference r idx inl bs = .ok (i, rest)) : i.wellFormed table = true := by
  cases r with
  | exit | goto | gotoEquals | gotoNotEquals | gotoGreater | gotoLess | call =>
    obtain ⟨v, rfl, rfl⟩ := takeWord_ok h
    exact hrow
  | compare =>
    obtain ⟨s0, s1, rfl, rfl⟩ := takeTwoSlots_ok h
    exact hrow
  | push | pop =>
    obtain ⟨s0, rfl, rfl⟩ := takeSlot_ok h
    exact hrow
  | ret =>
    cases h
    exact hrow

theorem decodeHost_ext {sig : Signature} {idx : BitVec 7} {inl : Bool} {bs rest : List Byte}
    {i : Instr} (h : decodeHost sig idx inl bs = .ok (i, rest)) :
    ∃ ops, i = .ext idx inl ops := by
  cases sig with
  | none =>
    cases h
    exact ⟨_, rfl⟩
  | word =>
    obtain ⟨v, rfl, _⟩ := takeWord_ok (mk := fun v => .ext idx inl (.word v)) h
    exact ⟨_, rfl⟩
  | b1 =>
    obtain ⟨s0, rfl, _⟩ := takeSlot_ok h
    exact ⟨_, rfl⟩
  | b2 =>
    obtain ⟨s0, s1, rfl, _⟩ := takeTwoSlots_ok h
    exact ⟨_, rfl⟩
  | b3 =>
    obtain ⟨s0, s1, s2, rfl, _⟩ := takeThreeSlots_ok h
    exact ⟨_, rfl⟩

/-- From an opcode byte that selects a row, a decoding answers an instruction of the table. -/
theorem decode_wellFormed {table : List Descriptor} {o : Byte} {bs rest : List Byte} {i : Instr}
    {d : Descriptor} (hrow : table[(opcodeIndex o).toNat]? = some d)
    (h : decode table (o :: bs) = .ok (i, rest)) : i.wellFormed table = true := by
  cases hkind : d.kind with
  | reference r =>
    rw [decode_of_reference hrow hkind] at h
    exact decodeReference_wellFormed (rowIs_iff.2 ⟨d, hrow, hkind⟩) h
  | host sig body =>
    rw [decode_of_host hrow hkind] at h
    obtain ⟨ops, rfl⟩ := decodeHost_ext h
    have hsig : ops.signature = sig := (decodeHost_readsOperands h).signature
    exact rowIsHost_iff.2 ⟨d, body, hrow, hsig ▸ hkind⟩

/-- Settles O2: at a row the operands are read from the bytes; at none the one byte taken is the opcode byte. -/
theorem decodeIsEncoding : Obligations.DecodeIsEncoding := by
  intro table bs rest i h
  cases bs with
  | nil => cases h
  | cons o bs =>
    cases hrow : table[(opcodeIndex o).toNat]? with
    | some d =>
      exact ⟨decode_wellFormed hrow h, (decode_readsOperands hrow h).cons_eq_encode_append⟩
    | none =>
      have hlen : table.length ≤ (opcodeIndex o).toNat := List.getElem?_eq_none_iff.1 hrow
      rw [decode_of_no_row hlen] at h
      cases h
      exact ⟨decide_eq_true hlen,
        by simp [Instr.encode, Instr.inline, Instr.index, Instr.operands, Operands.bytes]⟩

/-! ### Lengths -/

/-- The operand bytes a decoding read are the first ones it saw. -/
theorem ReadsOperands.bytes_eq_take {sig : Signature} {idx : BitVec 7} {inl : Bool}
    {bs rest : List Byte} {i : Instr} (h : ReadsOperands sig idx inl bs i rest) :
    i.operands.bytes = bs.take sig.operandBytes := by
  rw [h.bytes, List.take_left' (by rw [Operands.length_bytes, h.signature])]

theorem Signature.operandBytes_le (sig : Signature) : sig.operandBytes ≤ 3 := by
  cases sig <;> decide

theorem InlineExtra.bytes_le (extra : InlineExtra) : extra.bytes ≤ 2 := by
  cases extra <;> decide

theorem instrLength_le (extra : InlineExtra) (sig : Signature) (inl : Bool) :
    instrLength extra sig inl ≤ 6 := by
  have hnb := sig.operandBytes_le
  have hextra := extra.bytes_le
  unfold instrLength
  split <;> omega

/-! ### Missing bytes -/

theorem takeWord_truncated_iff (mk : Word → Instr) (bs : List Byte) :
    takeWord mk bs = .error .truncated ↔ bs.length < 2 := by
  match bs with
  | [] | [_] | _ :: _ :: _ => simp [takeWord]

theorem takeSlot_truncated_iff (mk : Byte → Instr) (bs : List Byte) :
    takeSlot mk bs = .error .truncated ↔ bs.length < 1 := by
  match bs with
  | [] | _ :: _ => simp [takeSlot]

theorem takeTwoSlots_truncated_iff (mk : Byte → Byte → Instr) (bs : List Byte) :
    takeTwoSlots mk bs = .error .truncated ↔ bs.length < 2 := by
  match bs with
  | [] | [_] | _ :: _ :: _ => simp [takeTwoSlots]

theorem takeThreeSlots_truncated_iff (mk : Byte → Byte → Byte → Instr) (bs : List Byte) :
    takeThreeSlots mk bs = .error .truncated ↔ bs.length < 3 := by
  match bs with
  | [] | [_] | [_, _] | _ :: _ :: _ :: _ => simp [takeThreeSlots]

theorem decodeReference_truncated_iff (r : RefInstr) (idx : BitVec 7) (inl : Bool)
    (bs : List Byte) :
    decodeReference r idx inl bs = .error .truncated ↔ bs.length < r.signature.operandBytes := by
  cases r with
  | exit | goto | gotoEquals | gotoNotEquals | gotoGreater | gotoLess | call =>
    exact takeWord_truncated_iff ..
  | compare => exact takeTwoSlots_truncated_iff ..
  | push | pop => exact takeSlot_truncated_iff ..
  | ret => simp [decodeReference, RefInstr.signature, Signature.operandBytes]

theorem decodeHost_truncated_iff (sig : Signature) (idx : BitVec 7) (inl : Bool)
    (bs : List Byte) :
    decodeHost sig idx inl bs = .error .truncated ↔ bs.length < sig.operandBytes := by
  cases sig with
  | none => simp [decodeHost, Signature.operandBytes]
  | word => exact takeWord_truncated_iff (fun v => .ext idx inl (.word v)) bs
  | b1 => exact takeSlot_truncated_iff ..
  | b2 => exact takeTwoSlots_truncated_iff ..
  | b3 => exact takeThreeSlots_truncated_iff ..

theorem decode_truncated_iff_of_row {table : List Descriptor} {o : Byte} {d : Descriptor}
    (hrow : table[(opcodeIndex o).toNat]? = some d) (bs : List Byte) :
    decode table (o :: bs) = .error .truncated ↔
      bs.length < d.kind.signature.operandBytes := by
  cases hkind : d.kind with
  | reference r =>
    rw [decode_of_reference hrow hkind]
    exact decodeReference_truncated_iff ..
  | host sig body =>
    rw [decode_of_host hrow hkind]
    exact decodeHost_truncated_iff ..

/-- Settles O5: at a row its operand reader says what is missing; the illegal opcode byte needs no other byte. -/
theorem decodeStopsExactlyWhenTruncated : Obligations.DecodeStopsExactlyWhenTruncated := by
  intro table bs
  cases bs with
  | nil => simp [decode]
  | cons o bs =>
    show _ ↔ ∃ d, table[(opcodeIndex o).toNat]? = some d ∧ _
    cases hrow : table[(opcodeIndex o).toNat]? with
    | some d => simpa using decode_truncated_iff_of_row hrow bs
    | none => simp [decode_of_no_row (List.getElem?_eq_none_iff.1 hrow)]

/-- Settles O3: the decoder run on each word. -/
theorem specBytesDecode : Obligations.SpecBytesDecode :=
  ⟨rfl, rfl, rfl, rfl, rfl, rfl, rfl, rfl, rfl⟩

end Sys2Proof

/-! The fetch of a cycle (40_dispatch.md rules R100 to R103): the bytes it sees, the two ways it goes on, the faults it
takes, and the arithmetic of ip that follows it (10_state.md rule R22). -/

namespace Sys2Proof.Machine

/-! ### The bytes at ip -/

theorem State.fetchBytes_eq_map (s : State) (a n : Nat) :
    s.fetchBytes a n =
      (List.range (min n (s.len - a))).map fun k => Memory.read s.mem (a + k) := by
  induction n generalizing a with
  | zero => simp [State.fetchBytes]
  | succ n ih =>
    by_cases hin : a < s.len
    · have hmin : min (n + 1) (s.len - a) = min n (s.len - (a + 1)) + 1 := by omega
      rw [State.fetchBytes, if_pos hin, ih, hmin, List.range_succ_eq_map]
      simp [Nat.add_assoc, Nat.add_comm 1]
    · have hmin : min (n + 1) (s.len - a) = 0 := by omega
      rw [State.fetchBytes, if_neg hin, hmin]
      rfl

theorem State.length_fetchBytes (s : State) (a n : Nat) :
    (s.fetchBytes a n).length = min n (s.len - a) := by
  simp [State.fetchBytes_eq_map]

/-- In a cycle the opcode byte is there, and at most three operand bytes behind it. -/
theorem fetchBytes_of_ready {s : State} (hready : s.CycleReady) :
    s.fetchBytes s.ip.toNat 4 =
      Memory.read s.mem s.ip.toNat :: s.fetchBytes (s.ip.toNat + 1) 3 :=
  if_pos hready.2.2

/-! ### The step after the fetch -/

theorem step_of_decode_ok {s : State} {i : Instr} {rest : List Byte} (hready : s.CycleReady)
    (hdec : decode s.cfg.table (s.fetchBytes s.ip.toNat 4) = .ok (i, rest)) :
    step s = exec i s := by
  rcases fetch_ready hready with ⟨j, rest', hdec', hfetch⟩ | ⟨hdec', _⟩
  · obtain ⟨rfl, _⟩ := Prod.mk.inj (Except.ok.inj (hdec'.symm.trans hdec))
    simp only [step, hready.1, hfetch]
  · cases hdec'.symm.trans hdec

theorem step_of_decode_truncated {s : State} (hready : s.CycleReady)
    (hdec : decode s.cfg.table (s.fetchBytes s.ip.toNat 4) = .error .truncated) :
    step s = .next (raiseFault .truncatedInstruction s.ip s) := by
  rcases fetch_ready hready with ⟨j, rest', hdec', _⟩ | ⟨_, hfetch⟩
  · cases hdec'.symm.trans hdec
  · simp only [step, hready.1, hfetch]

/-- Settles O6: what the fetch hands on is the decoded instruction. -/
theorem stepRunsTheDecodedInstruction : Obligations.StepRunsTheDecodedInstruction :=
  fun _ _ _ => step_of_decode_ok

/-- Settles O7: with no operand byte missing the decoder answers an instruction, and reads its operands from the bytes
behind ip. -/
theorem stepFetchesFromTheImage : Obligations.StepFetchesFromTheImage := by
  intro s d hready hrow hin
  have hnb := d.kind.signature.operandBytes_le
  rcases fetch_ready hready with ⟨i, rest, hdec, _⟩ | ⟨hdec, _⟩
  · refine ⟨i, step_of_decode_ok hready hdec, ?_⟩
    rw [fetchBytes_of_ready hready] at hdec
    have hread := decode_readsOperands hrow hdec
    refine ⟨decode_wellFormed hrow hdec, hread.index, hread.inline, ?_⟩
    have hmin : min d.kind.signature.operandBytes (min 3 (s.len - (s.ip.toNat + 1))) =
        d.kind.signature.operandBytes := by omega
    rw [hread.bytes_eq_take, s.fetchBytes_eq_map, ← List.map_take, List.take_range, hmin]
  · rw [fetchBytes_of_ready hready, decode_truncated_iff_of_row hrow, s.length_fetchBytes] at hdec
    omega

/-! ### The faults of the fetch -/

/-- A fault of the fetch with the code `code`: fault entry, and nothing else is written (60_exceptions.md rule R212). -/
def FaultInFetch (s t : State) (code : BitVec 3) : Prop :=
  FaultTaken s t code ∧ DecodeRegsKept s t ∧ FlagsKept s t ∧ ValueStackKept s t ∧
  CallStackKept s t ∧ ImageKept s t ∧ HostSideKept s t ∧ t.draws = s.draws

theorem raiseFault_faultInFetch (s : State) (k : FaultKind) :
    FaultInFetch s (raiseFault k s.ip s) k.code := by
  simp [FaultInFetch, FaultTaken, DecodeRegsKept, OperandSetIs, FlagsKept, ValueStackKept,
    CallStackKept, ImageKept, HostSideKept]

theorem exec_illegal (s : State) (idx : BitVec 7) (inl : Bool) :
    exec (.illegal idx inl) s = .next (raiseFault .invalidOpcode s.ip s) := rfl

/-- Settles O25: its meaning is fault entry. -/
theorem illegalTakesInvalidOpcode : Obligations.IllegalTakesInvalidOpcode := fun s idx inl =>
  ⟨_, exec_illegal s idx inl, raiseFault_faultInFetch s .invalidOpcode⟩

/-- Settles O8: an index past the table decodes to the illegal instruction, with no look at the bytes behind it. -/
theorem invalidOpcodeFaultsFirst : Obligations.InvalidOpcodeFaultsFirst := by
  intro s hready hrow
  have hdec := decode_of_no_row hrow (s.fetchBytes (s.ip.toNat + 1) 3)
  rw [← fetchBytes_of_ready hready] at hdec
  exact ⟨_, step_of_decode_ok hready hdec, raiseFault_faultInFetch s .invalidOpcode⟩

/-- Settles O9: the fetch gives fewer operand bytes than the row asks for. -/
theorem missingOperandByteFaults : Obligations.MissingOperandByteFaults := by
  intro s d hready hrow hout
  have hdec : decode s.cfg.table (s.fetchBytes s.ip.toNat 4) = .error .truncated := by
    rw [fetchBytes_of_ready hready, decode_truncated_iff_of_row hrow, s.length_fetchBytes]
    omega
  exact ⟨_, step_of_decode_truncated hready hdec, raiseFault_faultInFetch s .truncatedInstruction⟩

/-- Settles O46: fault entry is the one record update, and each code is that of the table. -/
theorem faultEntryWrites : Obligations.FaultEntryWrites :=
  ⟨fun _ _ _ => rfl, rfl, rfl, rfl, rfl, rfl, rfl, rfl⟩

/-! ### ip -/

/-- PROG_CAP leaves room above every ip of a run (rule R22). -/
theorem ip_lt_of_inv {s : State} (hinv : s.Inv) (hready : s.CycleReady) : s.ip.toNat < 32768 := by
  obtain ⟨hcfg, ⟨hlen, _⟩, _⟩ := hinv
  obtain ⟨_, hcap, _⟩ := (wellFormed_iff s.cfg).1 hcfg
  have hip := hready.2.2
  omega

theorem advancedIp_toNat {ip0 : Word} (hip : ip0.toNat < 32768) (extra : InlineExtra)
    (sig : Signature) (inl : Bool) :
    (advancedIp extra ip0 sig inl).toNat = ip0.toNat + instrLength extra sig inl := by
  have hlength := instrLength_le extra sig inl
  rw [advancedIp, BitVec.toNat_ofNat, Nat.mod_eq_of_lt (by omega)]

theorem embeddedAddr_toNat {ip0 : Word} (hip : ip0.toNat < 32768) (sig : Signature) :
    (embeddedAddr ip0 sig.operandBytes).toNat = ip0.toNat + 1 + sig.operandBytes := by
  have hnb := sig.operandBytes_le
  rw [embeddedAddr, BitVec.toNat_ofNat, Nat.mod_eq_of_lt (by omega)]

/-- Settles O11: ip lies below PROG_CAP, and an instruction is at most six bytes long. -/
theorem ipArithmeticNeverWraps : Obligations.IpArithmeticNeverWraps := by
  intro s sig inl hinv hready
  have hip := ip_lt_of_inv hinv hready
  exact ⟨advancedIp_toNat hip _ sig inl, embeddedAddr_toNat hip sig⟩

end Sys2Proof.Machine

/-! What a cycle that answers a next state can have done (40_dispatch.md rule R101), said once for `exec` and for `step`,
and what follows for every instruction: what it leaves alone, and how the run state, the result port and the trace port
stand after it. -/

namespace Sys2Proof.Machine

/-- The cycle that took `s` to `t` left a framed state, and then steps 7 and 8 ended it or a fault was taken at ip0. -/
def CycleResult (s t : State) : Prop :=
  ∃ u, CapFrame s u ∧ (t = endCheck (emitTrace u) ∨ ∃ k, t = raiseFault k s.ip u)

theorem exec_cycleResult {i : Instr} {s t : State} (h : exec i s = .next t) :
    CycleResult s t := by
  rcases exec_cases i s with ⟨_, _, _, _, _, he⟩ | ⟨_, _, _, he⟩ | ⟨u, hu, he | ⟨k, _, he⟩⟩ <;>
    cases h.symm.trans he
  case inr.inl => exact ⟨s, CapFrame.refl s, .inr ⟨_, rfl⟩⟩
  case inr.inr.inl => exact ⟨u, hu, .inl rfl⟩
  case inr.inr.inr => exact ⟨u, hu, .inr ⟨k, rfl⟩⟩

theorem step_cycleResult {s t : State} (hready : s.CycleReady) (h : step s = .next t) :
    CycleResult s t := by
  rcases fetch_ready hready with ⟨i, rest, hdec, _⟩ | ⟨hdec, _⟩
  · exact exec_cycleResult ((step_of_decode_ok hready hdec).symm.trans h)
  · cases h.symm.trans (step_of_decode_truncated hready hdec)
    exact ⟨s, CapFrame.refl s, .inr ⟨_, rfl⟩⟩

/-! ### What a cycle leaves alone -/

section
variable {s t : State} (h : CycleResult s t)
include h

theorem CycleResult.hostSide :
    t.cfg = s.cfg ∧ t.len = s.len ∧ t.pending = s.pending ∧ t.hostReplies = s.hostReplies := by
  obtain ⟨u, hu, rfl | ⟨k, rfl⟩⟩ := h <;> simp [hu.cfg, hu.len, hu.pending, hu.hostReplies]

theorem CycleResult.read_of_len_le {a : Nat} (ha : s.len ≤ a) :
    Memory.read t.mem a = Memory.read s.mem a := by
  obtain ⟨u, hu, rfl | ⟨k, rfl⟩⟩ := h <;> simpa using hu.pastLen a ha

theorem CycleResult.imageOk (hs : s.ImageOk) : t.ImageOk := by
  obtain ⟨u, hu, rfl | ⟨k, rfl⟩⟩ := h <;> simpa [State.ImageOk] using hu.imageOk hs

theorem CycleResult.stacksOk (hs : s.StacksOk) : t.StacksOk := by
  obtain ⟨u, hu, rfl | ⟨k, rfl⟩⟩ := h <;> simpa [State.StacksOk] using hu.stacksOk hs

/-- Without a fault the cycle ended by steps 7 and 8; with one, at ip0 and with no trace event. -/
theorem CycleResult.cases :
    CycleEnds s t ∨
      t.phase = .faulted ∧ t.running = false ∧ t.faultKind ≠ 0 ∧ t.faultIp = s.ip ∧
        t.resultPort = .faulted t.faultKind t.faultIp :: s.resultPort ∧
        t.tracePort = s.tracePort := by
  obtain ⟨u, hu, rfl | ⟨k, rfl⟩⟩ := h
  · exact .inl hu.cycleEnds
  · exact .inr ⟨rfl, rfl, k.code_ne_zero, rfl, by simp [hu.resultPort], by simp [hu.tracePort]⟩

end

/-- Settles O36: the frame of every capability, kept by both ends of a cycle. -/
theorem noInstructionChangesTheTable : Obligations.NoInstructionChangesTheTable :=
  fun _ _ _ h => (exec_cycleResult h).hostSide

/-- Settles O37: a cell in range lies below `len`, and nothing else writes the image. -/
theorem noInstructionWritesPastLen : Obligations.NoInstructionWritesPastLen :=
  fun _ _ _ _ h => (exec_cycleResult h).read_of_len_le

/-! ### The run state after a cycle -/

/-- Step 8 from phase RUNNING, with what it reports (rule R110, 10_state.md rule R46). -/
theorem CycleEnds.phase_cases {s t : State} (h : CycleEnds s t) (hphase : s.phase = .running) :
    (t.phase = .halted ∧ t.running = false ∧ t.resultPort = .halted t.exit :: s.resultPort) ∨
    (t.phase = .ended ∧ t.running = true ∧ t.len ≤ t.ip.toNat ∧
      t.resultPort = .ended t.exit :: s.resultPort) ∨
    (t.phase = .running ∧ t.running = true ∧ t.ip.toNat < t.len ∧
      t.resultPort = s.resultPort) := by
  obtain ⟨_, _, hend⟩ := h
  split at hend
  case isTrue hrun => exact .inl ⟨(Prod.mk.inj hend).1, hrun, (Prod.mk.inj hend).2⟩
  case isFalse hrun =>
    have hrun : t.running = true := by simpa using hrun
    split at hend <;> obtain ⟨hp, hr⟩ := Prod.mk.inj hend
    case isTrue hip => exact .inr (.inl ⟨hp, hrun, hip, hr⟩)
    case isFalse hip => exact .inr (.inr ⟨hp.trans hphase, hrun, Nat.not_le.1 hip, hr⟩)

theorem CycleEnds.phase_ne_faulted {s t : State} (h : CycleEnds s t) (hphase : s.phase ≠ .faulted) :
    t.phase ≠ .faulted := by
  obtain ⟨_, _, hend⟩ := h
  have hp : t.phase = if t.running = false then .halted
      else if t.len ≤ t.ip.toNat then .ended else s.phase := by
    simpa only [apply_ite Prod.fst] using congrArg Prod.fst hend
  split_ifs at hp <;> simp [hp, hphase]

theorem CycleEnds.runStateOk {s t : State} (h : CycleEnds s t) (hphase : s.phase = .running)
    (hs : s.RunStateOk) : t.RunStateOk := by
  obtain ⟨_, _, _, hkind⟩ := hs
  have hzero : t.faultKind = 0 := h.1.1.trans (hkind (by simp [hphase]))
  rcases h.phase_cases hphase with ⟨hp, hr, _⟩ | ⟨hp, hr, _⟩ | ⟨hp, hr, _⟩ <;>
    simp [State.RunStateOk, hp, hr, hzero]

theorem CycleResult.runStateOk {s t : State} (h : CycleResult s t) (hphase : s.phase = .running)
    (hs : s.RunStateOk) : t.RunStateOk := by
  rcases h.cases with hends | ⟨hp, hr, hk, _⟩
  · exact hends.runStateOk hphase hs
  · simpa [State.RunStateOk, hp, hr] using hk

/-- Settles O44: one result for each way step 8 or fault entry leaves phase RUNNING. -/
theorem resultReportedWhenARunEnds : Obligations.ResultReportedWhenARunEnds := by
  intro s t hready h
  rcases (step_cycleResult hready h).cases with hends | ⟨hp, _, _, _, hr, _⟩
  · rcases hends.phase_cases hready.1 with ⟨hp, _, hr⟩ | ⟨hp, _, _, hr⟩ | ⟨hp, _, _, hr⟩ <;>
      rw [hp, hr]
  · rw [hp, hr]

/-- Settles O45: step 7 comes before step 8, and fault entry has neither. -/
theorem traceOncePerExecutedInstruction : Obligations.TraceOncePerExecutedInstruction := by
  intro s t hready h
  rcases (step_cycleResult hready h).cases with hends | ⟨hp, _, _, _, _, ht⟩
  · have hp : t.phase ≠ .faulted := hends.phase_ne_faulted (by simp [hready.1])
    obtain ⟨_, ht, _⟩ := hends
    simpa [hp, hready.1] using ht
  · simpa [hp] using ht

/-- Settles O47: of the two ends of a cycle only fault entry leaves FAULTED. -/
theorem faultsRecordIpZero : Obligations.FaultsRecordIpZero := by
  intro s t hready h hfaulted
  have hresult := step_cycleResult hready h
  obtain ⟨_, hlen, _⟩ := hresult.hostSide
  rcases hresult.cases with hends | ⟨_, hr, hk, hip, _, ht⟩
  · exact absurd hfaulted (hends.phase_ne_faulted (by simp [hready.1]))
  · exact ⟨hip, hk, hr, hlen, ht⟩

end Sys2Proof.Machine

/-! What a step outside a run does (70_reset_and_hazards.md rules R241 to R247): one equation per transaction, what a
table the host offers becomes, and which transaction changes the run state. -/

namespace Sys2Proof.Machine

/-! ### RunStart -/

/-- RunStart written out (rule R245): the check for an empty program reads the ip it has just cleared. -/
theorem runStart_eq (s : State) : runStart s = { startRegisters s with
    phase := if s.len = 0 then .ended else .running
    resultPort := if s.len = 0 then .ended 0 :: s.resultPort else s.resultPort } := by
  by_cases hlen : s.len = 0 <;>
    simp [runStart, hlen, State.setPhase, State.report, startRegisters, State.setIp,
      State.setOperandSet, State.setFlags, State.setRun, State.setVstack, State.setCstack]

theorem run_of_table {s : State} (htable : s.cfg.table ≠ []) : run s = .next (runStart s) :=
  if_neg htable

theorem run_of_no_table {s : State} (htable : s.cfg.table = []) :
    run s = .refused .runWithoutTable :=
  if_pos htable

/-- Settles O58: a RUN at the head of the queue is served by RunStart, or refused. -/
theorem runStartWrites : Obligations.RunStartWrites := by
  intro s rest hout hpend
  refine ⟨fun htable => ?_, fun htable => ?_⟩
  · rw [step_of_pending hout hpend, serve, run_of_table (s := s.setPending rest) htable,
      runStart_eq]
    rfl
  · rw [step_of_pending hout hpend]
    exact run_of_no_table (s := s.setPending rest) htable

theorem step_of_nothing_pending {s : State} (hout : s.phase ≠ .running) (hpend : s.pending = []) :
    step s = .next s := by
  simp only [step_of_not_running hout, betweenRuns, hpend]

/-- Settles O60: an empty queue keeps the state; a trace registration sets the one parameter. -/
theorem betweenRunsTheStateIsKept : Obligations.BetweenRunsTheStateIsKept := fun _ hout =>
  ⟨step_of_nothing_pending hout, fun _ hpend => step_of_pending hout hpend⟩

/-! ### Registration -/

theorem signatureOfCode_eq_some_iff (c : BitVec 3) (sig : Signature) :
    signatureOfCode c = some sig ↔ signatureCode sig = c.toNat := by
  revert c
  cases sig <;> decide

theorem signatureOfCode_of_illegal {c : BitVec 3} (hc : 5 ≤ c.toNat) :
    signatureOfCode c = none := by
  revert c
  decide

theorem signatureOfCode_of_legal {c : BitVec 3} (hc : c.toNat < 5) :
    ∃ sig, signatureOfCode c = some sig := by
  rw [← Option.isSome_iff_exists]
  revert c
  decide

theorem descriptorOf_registeredAs {r : RawDescriptor} {d : Descriptor}
    (h : descriptorOf r = some d) : RegisteredAs r d := by
  unfold descriptorOf at h
  split at h
  · cases h
  · rename_i sig hsig
    have hcode := (signatureOfCode_eq_some_iff _ _).1 hsig
    split at h
    case h_1 body hcap =>
      cases h
      exact ⟨rfl, hcode, by simp [hcap, CapKind.signature]⟩
    case h_2 i hcap =>
      split at h
      · rename_i hown
        cases h
        exact ⟨rfl, (congrArg signatureCode hown).trans hcode, by simp [hcap]⟩
      · cases h

theorem descriptorOf_of_illegal {r : RawDescriptor} (hcode : 5 ≤ r.sigCode.toNat) :
    descriptorOf r = none := by
  simp [descriptorOf, signatureOfCode_of_illegal hcode]

/-- A reference instruction offered with another signature than its own is refused (log 13). -/
theorem descriptorOf_of_other_signature {r : RawDescriptor} {i : RefInstr}
    (hcap : r.capability = .reference i)
    (hcode : signatureCode i.signature ≠ r.sigCode.toNat) : descriptorOf r = none := by
  cases hd : descriptorOf r with
  | none => rfl
  | some d =>
    obtain ⟨_, hsig, hkind⟩ := descriptorOf_registeredAs hd
    rw [hcap] at hkind
    replace hkind : d.kind = .reference i := hkind
    rw [hkind] at hsig
    exact absurd hsig hcode

theorem descriptorOf_of_legal {r : RawDescriptor} (hcode : r.sigCode.toNat < 5)
    (hown : ∀ i, r.capability = .reference i → signatureCode i.signature = r.sigCode.toNat) :
    ∃ d, descriptorOf r = some d := by
  obtain ⟨sig, hsig⟩ := signatureOfCode_of_legal hcode
  cases hcap : r.capability with
  | host body => exact ⟨_, by simp only [descriptorOf, hsig, hcap]; rfl⟩
  | reference i =>
    have hi := (signatureOfCode_eq_some_iff _ _).2 (hown i hcap)
    exact ⟨_, by simp only [descriptorOf, hi, hcap, if_pos]; rfl⟩

theorem descriptorsOf_cons (r : RawDescriptor) (rest : List RawDescriptor) :
    descriptorsOf (r :: rest) =
      (descriptorOf r).bind fun d => (descriptorsOf rest).map (d :: ·) := by
  rw [descriptorsOf]
  cases descriptorOf r <;> cases descriptorsOf rest <;> rfl

/-- One bad row refuses the whole table. -/
theorem descriptorsOf_of_bad_row {rows : List RawDescriptor} {r : RawDescriptor} (hr : r ∈ rows)
    (hbad : descriptorOf r = none) : descriptorsOf rows = none := by
  induction rows with
  | nil => cases hr
  | cons x rest ih =>
    rw [descriptorsOf_cons]
    rcases List.mem_cons.1 hr with rfl | hr
    · simp [hbad]
    · simp [ih hr]

theorem descriptorsOf_of_good_rows {rows : List RawDescriptor}
    (hgood : ∀ r ∈ rows, ∃ d, descriptorOf r = some d) :
    ∃ table, descriptorsOf rows = some table ∧ List.Forall₂ RegisteredAs rows table := by
  induction rows with
  | nil => exact ⟨[], rfl, .nil⟩
  | cons r rest ih =>
    obtain ⟨d, hd⟩ := hgood r List.mem_cons_self
    obtain ⟨table, htable, hall⟩ := ih fun x hx => hgood x (List.mem_cons_of_mem _ hx)
    exact ⟨d :: table, by simp [descriptorsOf_cons, hd, htable],
      .cons (descriptorOf_registeredAs hd) hall⟩

theorem length_descriptorsOf {rows : List RawDescriptor} {table : List Descriptor}
    (h : descriptorsOf rows = some table) : table.length = rows.length := by
  induction rows generalizing table with
  | nil =>
    cases h
    rfl
  | cons r rest ih =>
    rw [descriptorsOf_cons] at h
    obtain ⟨d, _, h⟩ := Option.bind_eq_some_iff.1 h
    obtain ⟨ds, hds, rfl⟩ := Option.map_eq_some_iff.1 h
    simp [ih hds]

theorem length_tableOf {rows : List RawDescriptor} {table : List Descriptor}
    (h : tableOf rows = some table) : table.length ≤ 128 := by
  unfold tableOf at h
  split at h
  · rename_i hlen
    rw [length_descriptorsOf h]
    exact hlen.2
  · cases h

theorem registerTable_of_some {rows : List RawDescriptor} {table : List Descriptor}
    (h : tableOf rows = some table) (s : State) :
    registerTable rows s =
      (s.setConfig { s.cfg with table := table }).reply .tableRegistered := by
  simp only [registerTable, h]

theorem registerTable_of_none {rows : List RawDescriptor} (h : tableOf rows = none) (s : State) :
    registerTable rows s = s.reply .tableRefused := by
  simp only [registerTable, h]

theorem step_of_pending_registerTable {s : State} {rows : List RawDescriptor}
    {rest : List HostCmd} (hout : s.phase ≠ .running)
    (hpend : s.pending = .registerTable rows :: rest) :
    step s = .next (registerTable rows (s.setPending rest)) :=
  step_of_pending hout hpend

/-- Settles O59: a bad length or a bad row leaves no table to register; else every row is the one offered. -/
theorem tableRegistration : Obligations.TableRegistration := by
  intro s rows rest hout hpend
  rw [step_of_pending_registerTable hout hpend]
  refine ⟨fun hbad => ?refused, fun hmin hmax hrows => ?registered⟩
  case refused =>
    have hnone : tableOf rows = none := by
      rcases hbad with hlen | hlen | ⟨r, hr, hcode⟩ | ⟨r, hr, i, hcap, hcode⟩
      · exact if_neg (by omega)
      · exact if_neg (by omega)
      · simp [tableOf, descriptorsOf_of_bad_row hr (descriptorOf_of_illegal hcode)]
      · simp [tableOf, descriptorsOf_of_bad_row hr (descriptorOf_of_other_signature hcap hcode)]
    rw [registerTable_of_none hnone]
    rfl
  case registered =>
    obtain ⟨table, htable, hall⟩ := descriptorsOf_of_good_rows fun r hr =>
      descriptorOf_of_legal (hrows r hr).1 (hrows r hr).2
    have hsome : tableOf rows = some table := (if_pos ⟨hmin, hmax⟩).trans htable
    refine ⟨table, ?_, hall⟩
    rw [registerTable_of_some hsome]
    rfl

/-! ### The run state outside a run -/

/-- The registers of the run state of 10_state.md rule R29 that fault entry and step 8 look after. -/
def RunStateKept (s t : State) : Prop :=
  t.phase = s.phase ∧ t.running = s.running ∧ t.faultKind = s.faultKind

theorem registerTable_runStateKept (rows : List RawDescriptor) (s : State) :
    RunStateKept s (registerTable rows s) := by
  cases h : tableOf rows with
  | none =>
    rw [registerTable_of_none h]
    exact ⟨rfl, rfl, rfl⟩
  | some table =>
    rw [registerTable_of_some h]
    exact ⟨rfl, rfl, rfl⟩

theorem load_runStateKept (bytes : List Byte) (n : Nat) (s : State) :
    RunStateKept s (load bytes n s) := by
  rcases Nat.lt_or_ge s.cfg.progCap n with h | h
  · rw [load_of_lt bytes h]
    exact ⟨rfl, rfl, rfl⟩
  · rw [load_of_le bytes h]
    exact ⟨rfl, rfl, rfl⟩

/-- What RunStart leaves of the run state. -/
def RunStarted (t : State) : Prop :=
  t.running = true ∧ t.faultKind = 0 ∧
  (t.phase = .running ∧ t.ip.toNat < t.len ∨ t.phase = .ended ∧ t.len ≤ t.ip.toNat)

theorem runStart_runStarted (s : State) : RunStarted (runStart s) := by
  rw [runStart_eq]
  refine ⟨rfl, rfl, ?_⟩
  by_cases hlen : s.len = 0
  · simp [hlen]
  · simpa [hlen] using Nat.pos_of_ne_zero hlen

/-- Only a RUN changes the run state. -/
theorem serve_runState {s t : State} {c : HostCmd} (h : serve s c = .next t) :
    RunStateKept s t ∨ c = .run ∧ s.cfg.table ≠ [] ∧ t = runStart s := by
  cases c with
  | registerTable rows =>
    cases h
    exact .inl (registerTable_runStateKept rows s)
  | registerTrace =>
    cases h
    exact .inl ⟨rfl, rfl, rfl⟩
  | load bytes n =>
    cases h
    exact .inl (load_runStateKept bytes n s)
  | run =>
    by_cases htable : s.cfg.table = []
    · cases (run_of_no_table htable).symm.trans h
    · cases (run_of_table htable).symm.trans h
      exact .inr ⟨rfl, htable, rfl⟩

/-- Outside a run with a next state: nothing was waiting, or the oldest transaction was served. -/
theorem step_outside_cases {s t : State} (hout : s.phase ≠ .running) (h : step s = .next t) :
    t = s ∨ ∃ c rest, s.pending = c :: rest ∧ serve (s.setPending rest) c = .next t := by
  cases hpend : s.pending with
  | nil =>
    cases (step_of_nothing_pending hout hpend).symm.trans h
    exact .inl rfl
  | cons c rest => exact .inr ⟨c, rest, rfl, (step_of_pending hout hpend).symm.trans h⟩

theorem step_outside_runState {s t : State} (hout : s.phase ≠ .running) (h : step s = .next t) :
    RunStateKept s t ∨ s.pending.head? = some .run ∧ RunStarted t := by
  rcases step_outside_cases hout h with rfl | ⟨c, rest, hpend, hserve⟩
  · exact .inl ⟨rfl, rfl, rfl⟩
  · rcases serve_runState hserve with hkept | ⟨rfl, _, rfl⟩
    · exact .inl hkept
    · exact .inr ⟨by simp [hpend], runStart_runStarted _⟩

end Sys2Proof.Machine

/-! The invariant of the block and the transitions of its phase (10_state.md rules R30 and R31, 40_dispatch.md rule R112):
kept by a cycle through `CycleResult`, and by each of the host's transactions. -/

namespace Sys2Proof.Machine

/-- In a state of the invariant the loop's guard holds in phase RUNNING. -/
theorem State.Inv.cycleReady {s : State} (hinv : s.Inv) (hphase : s.phase = .running) :
    s.CycleReady := by
  obtain ⟨_, _, _, ⟨_, hrun, _⟩, hloop⟩ := hinv
  exact ⟨hphase, hrun (.inl hphase), (hloop hphase).1⟩

theorem CycleResult.inv {s t : State} (h : CycleResult s t) (hphase : s.phase = .running)
    (hinv : s.Inv) : t.Inv := by
  obtain ⟨hcfg, himage, hstacks, hrun, hloop⟩ := hinv
  obtain ⟨hc, _⟩ := h.hostSide
  refine ⟨(congrArg Config.wellFormed hc).trans hcfg, h.imageOk himage, h.stacksOk hstacks,
    h.runStateOk hphase hrun, fun ht => ⟨?_, by rw [hc]; exact (hloop hphase).2⟩⟩
  rcases h.cases with hends | ⟨hp, _⟩
  · rcases hends.phase_cases hphase with ⟨hp, _⟩ | ⟨hp, _⟩ | ⟨_, _, hip, _⟩
    · cases hp.symm.trans ht
    · cases hp.symm.trans ht
    · exact hip
  · cases hp.symm.trans ht

/-! ### The host's transactions -/

theorem registerTable_inv {s : State} (rows : List RawDescriptor) (hout : s.phase ≠ .running)
    (hinv : s.Inv) : (registerTable rows s).Inv := by
  cases h : tableOf rows with
  | none =>
    rw [registerTable_of_none h]
    exact hinv
  | some table =>
    rw [registerTable_of_some h]
    obtain ⟨hcfg, himage, hstacks, hrun, _⟩ := hinv
    obtain ⟨hmin, hmax, _, hstackCaps⟩ := (wellFormed_iff s.cfg).1 hcfg
    have hcfg' : Config.wellFormed { s.cfg with table := table } = true :=
      (wellFormed_iff _).2 ⟨hmin, hmax, length_tableOf h, hstackCaps⟩
    exact ⟨hcfg', himage, hstacks, hrun, fun hp => absurd hp hout⟩

theorem length_loadBytes (bytes : List Byte) (n draw : Nat) :
    (loadBytes bytes n draw).length = n := by
  simp [loadBytes]

theorem loadedImage_ok {s : State} {bytes : List Byte} {n : Nat} (hfits : n ≤ s.cfg.progCap)
    (himage : s.ImageOk) : (s.setImage (s.loadedImage bytes n) n).ImageOk := by
  obtain ⟨_, hwf, hbelow⟩ := himage
  exact ⟨hfits, Memory.writeList_wf _ 0 hwf,
    Memory.writeList_below _ (by rw [length_loadBytes, Nat.zero_add]; exact hfits) hbelow⟩

theorem load_inv {s : State} (bytes : List Byte) (n : Nat) (hout : s.phase ≠ .running)
    (hinv : s.Inv) : (load bytes n s).Inv := by
  rcases Nat.lt_or_ge s.cfg.progCap n with hlarge | hfits
  · rw [load_of_lt bytes hlarge]
    exact hinv
  · rw [load_of_le bytes hfits]
    obtain ⟨hcfg, himage, hstacks, hrun, _⟩ := hinv
    exact ⟨hcfg, loadedImage_ok hfits himage, hstacks, hrun, fun hp => absurd hp hout⟩

theorem RunStarted.runStateOk {t : State} (h : RunStarted t) : t.RunStateOk := by
  obtain ⟨hrun, hkind, ⟨hp, _⟩ | ⟨hp, _⟩⟩ := h <;> simp [State.RunStateOk, hrun, hkind, hp]

theorem RunStateKept.runStateOk {s t : State} (h : RunStateKept s t) (hs : s.RunStateOk) :
    t.RunStateOk := by
  obtain ⟨hp, hr, hk⟩ := h
  simpa only [State.RunStateOk, hp, hr, hk] using hs

theorem runStart_inv {s : State} (htable : s.cfg.table ≠ []) (hinv : s.Inv) :
    (runStart s).Inv := by
  have hstarted := runStart_runStarted s
  obtain ⟨hcfg, himage, ⟨⟨_, hv⟩, _, hc⟩, _⟩ := hinv
  refine ⟨?config, ?image, ?depths, hstarted.runStateOk, fun hp => ⟨?inside, ?table⟩⟩
  case config | image | table =>
    rw [runStart_eq]
    assumption
  case depths =>
    rw [runStart_eq]
    exact ⟨⟨Nat.zero_le _, hv⟩, Nat.zero_le _, hc⟩
  case inside =>
    obtain ⟨_, _, ⟨_, hip⟩ | ⟨hended, _⟩⟩ := hstarted
    · exact hip
    · cases hended.symm.trans hp

theorem serve_inv {s t : State} {c : HostCmd} (hout : s.phase ≠ .running) (hinv : s.Inv)
    (h : serve s c = .next t) : t.Inv := by
  cases c with
  | registerTable rows =>
    cases h
    exact registerTable_inv rows hout hinv
  | registerTrace =>
    cases h
    exact hinv
  | load bytes n =>
    cases h
    exact load_inv bytes n hout hinv
  | run =>
    by_cases htable : s.cfg.table = []
    · cases (run_of_no_table htable).symm.trans h
    · cases (run_of_table htable).symm.trans h
      exact runStart_inv htable hinv

/-! ### The obligations -/

/-- Settles O40: in a run by what a cycle can do, outside by the transaction served. -/
theorem everyStepKeepsTheInvariant : Obligations.EveryStepKeepsTheInvariant := by
  intro s t hinv h
  by_cases hphase : s.phase = .running
  · exact (step_cycleResult (hinv.cycleReady hphase) h).inv hphase hinv
  · rcases step_outside_cases hphase h with rfl | ⟨c, rest, _, hserve⟩
    · exact hinv
    · exact serve_inv (s := s.setPending rest) hphase hinv hserve

/-- Settles O38: each value as the reset state holds it. -/
theorem powerOnValues : Obligations.PowerOnValues :=
  ⟨rfl, rfl, rfl, rfl, rfl, ⟨rfl, rfl, rfl, rfl, rfl, rfl⟩, rfl, rfl, rfl, rfl⟩

/-- Settles O39: the reset state is one concrete state, and the invariant is decidable. -/
theorem powerOnMeetsTheInvariant : Obligations.PowerOnMeetsTheInvariant := by
  unfold Obligations.PowerOnMeetsTheInvariant
  decide

/-- Settles O41: outside a run only RunStart changes the run state, and it starts one that agrees. -/
theorem runStateAgreesWithPhase : Obligations.RunStateAgreesWithPhase := by
  obtain ⟨_, _, _, hreset, _⟩ := powerOnMeetsTheInvariant
  refine ⟨hreset, fun s t hs hguard h => ?_⟩
  by_cases hphase : s.phase = .running
  · exact (step_cycleResult (hguard hphase) h).runStateOk hphase hs
  · rcases step_outside_runState hphase h with hkept | ⟨_, hstarted⟩
    · exact hkept.runStateOk hs
    · exact hstarted.runStateOk

/-- Settles O43: in a run the cases of step 8 and fault entry, outside those of RunStart. -/
theorem phaseTransitions : Obligations.PhaseTransitions := by
  intro s t hguard h
  refine ⟨fun hphase => ?inside, fun hout => ?outside⟩
  case inside =>
    rcases (step_cycleResult (hguard hphase) h).cases with hends | ⟨hp, hr, _⟩
    · rcases hends.phase_cases hphase with ⟨hp, hr, _⟩ | ⟨hp, hr, hip, _⟩ | ⟨hp, hr, hip, _⟩
      · exact .inl ⟨hp, hr⟩
      · exact .inr (.inl ⟨hp, hr, hip⟩)
      · exact .inr (.inr (.inr ⟨hp, hr, hip⟩))
    · exact .inr (.inr (.inl ⟨hp, hr⟩))
  case outside =>
    rcases step_outside_runState hout h with ⟨hp, _⟩ | ⟨hhead, hr, _, hp⟩
    · exact .inl hp
    · exact .inr ⟨hhead, hr, hp⟩

/-- Settles O42: the hang is the one answer of a ready cycle that is no next state, and a capability that cannot reach
it ends. -/
theorem cyclesNeverStop : Obligations.CyclesNeverStop := by
  intro s hinv hphase
  rcases step_running_cases (hinv.cycleReady hphase) with
    ⟨i, rest, hdec, ⟨idx, inl, ops, rfl, hhang⟩, hstep⟩ | ⟨k, hstep⟩ |
      ⟨u, _, hstep | ⟨k, _, hstep⟩⟩
  · refine ⟨fun hsafe => ?_, .inr ⟨_, rest, idx, inl, ops, hdec, rfl, hhang, hstep⟩⟩
    obtain ⟨o, ho⟩ := runBody_ends idx _ [] (s.decoded idx inl ops) (hsafe idx)
    cases hhang.symm.trans ho
  · exact ⟨fun _ => ⟨_, hstep⟩, .inl ⟨_, hstep⟩⟩
  · exact ⟨fun _ => ⟨_, hstep⟩, .inl ⟨_, hstep⟩⟩
  · exact ⟨fun _ => ⟨_, hstep⟩, .inl ⟨_, hstep⟩⟩

end Sys2Proof.Machine

/-! COMPARE (42_compare.md rules R140 and R141): its capability on each side of the two cell checks, the cycle of one that
does not raise, and its flags as the signed order of the cells. -/

namespace Sys2Proof.Machine

theorem exec_compare (s : State) (idx : BitVec 7) (inl : Bool) (s0 s1 : Byte) :
    exec (.compare idx inl s0 s1) s = .next (runCycle idx inl (.b2 s0 s1) capCompare s) := rfl

theorem capCompare_of_le {s : State} (hleft : s.addr0.toNat + 2 ≤ s.len)
    (hright : s.addr1.toNat + 2 ≤ s.len) :
    capCompare s = .returned (s.compareFlags (s.cellAt s.addr0) (s.cellAt s.addr1)) := by
  simp only [capCompare, cellRead_of_le hleft, cellRead_of_le hright]

/-- Whichever cell is out, nothing has been written when the fault is raised. -/
theorem capCompare_of_out {s : State}
    (hout : s.len < s.addr0.toNat + 2 ∨ s.len < s.addr1.toNat + 2) :
    capCompare s = .raised .cellOutOfRange s := by
  rcases Nat.lt_or_ge s.len (s.addr0.toNat + 2) with hleft | hleft
  · simp only [capCompare, cellRead_of_gt hleft]
  · have hright := hout.resolve_left (Nat.not_lt.2 hleft)
    simp only [capCompare, cellRead_of_le hleft, cellRead_of_gt hright]

/-- The whole cycle of a COMPARE of the words `a` and `b`. -/
def State.compareCycle (s : State) (idx : BitVec 7) (inl : Bool) (s0 s1 : Byte) (a b : Word) :
    State :=
  endCheck (emitTrace ((s.decoded idx inl (.b2 s0 s1)).compareFlags a b))

/-- What a COMPARE that does not fault leaves besides the flags. -/
def CompareCycleFrame (s t : State) (idx : BitVec 7) (inl : Bool) (s0 s1 : Byte) : Prop :=
  t.ip = advanced s 2 inl ∧ OperandSetIs t idx inl 0 (slotAddr s0) (lastAddr s.ip inl 2 s1) 0 ∧
  CycleEnds s t ∧ t.running = s.running ∧ t.exit = s.exit ∧ ValueStackKept s t ∧
  CallStackKept s t ∧ ImageKept s t ∧ HostSideKept s t ∧ t.draws = s.draws

/-- The four flags say how the numbers `a` and `b` compare (rule R141). -/
def FlagsCompare (t : State) (a b : Int) : Prop :=
  t.eq = decide (a = b) ∧ t.ne = decide (a ≠ b) ∧ t.gt = decide (b < a) ∧ t.lt = decide (a < b)

/-- The rows of the table of flag outcomes, one per relation. -/
theorem FlagsCompare.relations {t : State} {a b : Int} (h : FlagsCompare t a b) :
    (a = b ∧ t.eq = true ∧ t.ne = false ∧ t.gt = false ∧ t.lt = false) ∨
    (b < a ∧ t.eq = false ∧ t.ne = true ∧ t.gt = true ∧ t.lt = false) ∨
    (a < b ∧ t.eq = false ∧ t.ne = true ∧ t.gt = false ∧ t.lt = true) := by
  obtain ⟨heq, hne, hgt, hlt⟩ := h
  rw [heq, hne, hgt, hlt]
  rcases lt_trichotomy a b with hab | rfl | hab
  · exact .inr (.inr ⟨hab, by simp [hab, hab.ne, hab.not_gt]⟩)
  · exact .inl ⟨rfl, by simp⟩
  · exact .inr (.inl ⟨hab, by simp [hab, hab.ne', hab.not_gt]⟩)

section
variable (s : State) (idx : BitVec 7) (inl : Bool) (s0 s1 : Byte)

theorem State.compareCycle_frame (a b : Word) :
    CompareCycleFrame s (s.compareCycle idx inl s0 s1 a b) idx inl s0 s1 := by
  refine ⟨?ip, ?operands, ?ends, ?kept⟩
  case ip =>
    calc (s.compareCycle idx inl s0 s1 a b).ip
        = (s.decoded idx inl (.b2 s0 s1)).ip := by
          simp [State.compareCycle, State.compareFlags]
      _ = advanced s 2 inl := decoded_ip_eq_advanced s idx inl (.b2 s0 s1)
  case operands =>
    simp [State.compareCycle, State.compareFlags, OperandSetIs, resolvedImm, resolvedAddr0,
      resolvedAddr1, resolvedAddr2]
  case ends => exact (finishCycle_returned s.ip rfl ⟨rfl, rfl⟩ rfl rfl rfl).1
  case kept =>
    simp [State.compareCycle, State.compareFlags, ValueStackKept, CallStackKept, ImageKept,
      HostSideKept]

theorem State.compareCycle_flags (a b : Word) :
    FlagsCompare (s.compareCycle idx inl s0 s1 a b) a.toInt b.toInt := by
  simp [FlagsCompare, State.compareCycle, State.compareFlags, flagEq, flagNe, flagGt, flagLt,
    BitVec.toInt_inj]

theorem exec_compare_of_le (hleft : (slotAddr s0).toNat + 2 ≤ s.len)
    (hright : (lastAddr s.ip inl 2 s1).toNat + 2 ≤ s.len) :
    exec (.compare idx inl s0 s1) s = .next (s.compareCycle idx inl s0 s1
      (s.cellAt (slotAddr s0)) (s.cellAt (lastAddr s.ip inl 2 s1))) :=
  exec_of_returned (exec_compare s idx inl s0 s1) (capCompare_of_le hleft hright)

theorem exec_compare_of_out
    (hout : s.len < (slotAddr s0).toNat + 2 ∨ s.len < (lastAddr s.ip inl 2 s1).toNat + 2) :
    ∃ t, exec (.compare idx inl s0 s1) s = .next t ∧
      FaultAfterDecode s t idx inl (.b2 s0 s1) 3 :=
  exec_faultAfterDecode (exec_compare s idx inl s0 s1) (capCompare_of_out hout)

end

/-- What a COMPARE that answers `t` did. -/
theorem exec_compare_cases {s t : State} {idx : BitVec 7} {inl : Bool} {s0 s1 : Byte}
    (h : exec (.compare idx inl s0 s1) s = .next t) :
    t = s.compareCycle idx inl s0 s1 (s.cellAt (slotAddr s0))
      (s.cellAt (lastAddr s.ip inl 2 s1)) ∨ FaultAfterDecode s t idx inl (.b2 s0 s1) 3 := by
  by_cases hin : (slotAddr s0).toNat + 2 ≤ s.len ∧ (lastAddr s.ip inl 2 s1).toNat + 2 ≤ s.len
  · cases h.symm.trans (exec_compare_of_le s idx inl s0 s1 hin.1 hin.2)
    exact .inl rfl
  · obtain ⟨u, hu, hfault⟩ := exec_compare_of_out s idx inl s0 s1 (by omega)
    cases h.symm.trans hu
    exact .inr hfault

/-- Settles O19: the signed order of the two cells when both are in range, else the fault with no flag written. -/
theorem compareSetsTheFlags : Obligations.CompareSetsTheFlags := by
  refine ⟨fun _ _ _ => ⟨rfl, rfl⟩, fun s idx inl s0 s1 _ => ⟨fun hleft hright => ?compared,
    exec_compare_of_out s idx inl s0 s1⟩⟩
  case compared =>
    obtain ⟨heq, hne, hgt, hlt⟩ := s.compareCycle_flags idx inl s0 s1 (s.cellAt (slotAddr s0))
      (s.cellAt (lastAddr s.ip inl 2 s1))
    exact ⟨_, exec_compare_of_le s idx inl s0 s1 hleft hright, heq, hne, hgt, hlt,
      s.compareCycle_frame ..⟩

/-- Settles O20: the three relations of the two signed numbers, one at a time. -/
theorem compareFlagOutcomes : Obligations.CompareFlagOutcomes := by
  intro s t idx inl s0 s1 _ h hok a b
  have hflags : FlagsCompare t a b := by
    rcases exec_compare_cases h with rfl | ⟨⟨_, _, _, hphase, _⟩, _⟩
    · exact s.compareCycle_flags idx inl s0 s1 _ _
    · exact absurd hphase hok
  rcases hflags.relations with ⟨hab, heq, hne, hgt, hlt⟩ | ⟨hab, heq, hne, hgt, hlt⟩ |
    ⟨hab, heq, hne, hgt, hlt⟩ <;> simp [heq, hne, hgt, hlt] <;> omega

end Sys2Proof.Machine

/-! What each instruction leaves unchanged, over every state it answers a next state from (40_dispatch.md section 3,
60_exceptions.md rule R212): a case analysis over the whole cycle or the fault after the decode. -/

namespace Sys2Proof.Machine

/-! ### The two ends of a cycle -/

theorem CycleEnds.runRegsKept {s t : State} (h : CycleEnds s t) (hrun : t.running = s.running) :
    RunRegsKeptUnlessFaulted s t :=
  fun _ => ⟨hrun, h.1⟩

/-- A cycle that ends by step 8 leaves no obligation about a fault. -/
theorem CycleEnds.not_newly_faulted {s t : State} (h : CycleEnds s t) {p : Prop}
    (hs : s.phase ≠ .faulted) (ht : t.phase = .faulted) : p :=
  absurd ht (h.phase_ne_faulted hs)

/-- What every fault after the decode keeps: all but the decode writes and what fault entry writes. -/
theorem FaultAfterDecode.kept {s t : State} {idx : BitVec 7} {inl : Bool} {ops : Operands}
    {code : BitVec 3} (h : FaultAfterDecode s t idx inl ops code) :
    t.exit = s.exit ∧ FlagsKept s t ∧ ValueStackKept s t ∧ CallStackKept s t ∧ ImageKept s t ∧
      HostSideKept s t ∧ t.draws = s.draws ∧ RunRegsKeptUnlessFaulted s t := by
  obtain ⟨⟨_, _, _, hphase, _, _, hexit⟩, _, _, hflags, hvalues, hcalls, himage, hhost, hdraws⟩ := h
  exact ⟨hexit, hflags, hvalues, hcalls, himage, hhost, hdraws, fun hp => absurd hphase hp⟩

/-- An instruction whose capability raises with nothing written yet answers the fault and nothing else. -/
theorem faultAfterDecode_of_raised {i : Instr} {s t : State} {idx : BitVec 7} {inl : Bool}
    {ops : Operands} {cap : State → CapOutcome} {k : FaultKind}
    (hexec : exec i s = .next (runCycle idx inl ops cap s))
    (hcap : cap (s.decoded idx inl ops) = .raised k (s.decoded idx inl ops))
    (h : exec i s = .next t) : ∃ code, FaultAfterDecode s t idx inl ops code := by
  obtain ⟨u, hu, hfault⟩ := exec_faultAfterDecode hexec hcap
  cases h.symm.trans hu
  exact ⟨_, hfault⟩

/-! ### EXIT and the jumps -/

section
variable (s : State) (idx : BitVec 7) (inl : Bool) (v : Word)

/-- Every jump is the one jump cycle, with its condition's outcome as `taken`. -/
theorem exec_jump {i : Instr} (hi : i ∈ [.goto idx inl v, .gotoEquals idx inl v,
    .gotoNotEquals idx inl v, .gotoGreater idx inl v, .gotoLess idx inl v]) :
    ∃ taken, exec i s = .next (s.jumpCycle idx inl v taken) := by
  simp only [List.mem_cons, List.not_mem_nil, or_false] at hi
  rcases hi with rfl | rfl | rfl | rfl | rfl
  · exact ⟨true, exec_goto s idx inl v⟩
  · exact ⟨s.eq, exec_gotoEquals s idx inl v⟩
  · exact ⟨s.ne, exec_gotoNotEquals s idx inl v⟩
  · exact ⟨s.gt, exec_gotoGreater s idx inl v⟩
  · exact ⟨s.lt, exec_gotoLess s idx inl v⟩

/-- The whole cycle of EXIT. -/
def State.exitCycle : State := endCheck (emitTrace (s.exited idx inl v))

theorem State.exitCycle_kept :
    FlagsKept s (s.exitCycle idx inl v) ∧ ValueStackKept s (s.exitCycle idx inl v) ∧
      CallStackKept s (s.exitCycle idx inl v) ∧ FaultRegsKept s (s.exitCycle idx inl v) ∧
      ImageKept s (s.exitCycle idx inl v) ∧ HostSideKept s (s.exitCycle idx inl v) ∧
      (s.exitCycle idx inl v).draws = s.draws := by
  simp [State.exitCycle, State.exited, FlagsKept, ValueStackKept, CallStackKept, FaultRegsKept,
    ImageKept, HostSideKept]

end

/-- Settles O30: EXIT's cycle, and the one cycle of the five jumps. -/
theorem jumpAndExitFrame : Obligations.JumpAndExitFrame := by
  intro s t idx inl v i hi h
  rcases List.mem_cons.1 hi with rfl | hjump
  · cases (exec_exit s idx inl v).symm.trans h
    obtain ⟨hflags, hvalues, hcalls, hfaults, himage, hhost, hdraws⟩ := s.exitCycle_kept idx inl v
    exact ⟨hflags, hvalues, hcalls, hfaults, himage, hhost, hdraws, fun hne => absurd rfl hne⟩
  · obtain ⟨taken, hexec⟩ := exec_jump s idx inl v hjump
    cases hexec.symm.trans h
    obtain ⟨_, hends, hrun, hexit, hflags, hvalues, hcalls, himage, hhost, hdraws⟩ :=
      s.jumpCycle_frame idx inl v taken
    exact ⟨hflags, hvalues, hcalls, hends.1, himage, hhost, hdraws, fun _ => ⟨hrun, hexit⟩⟩

/-! ### COMPARE -/

/-- Settles O31: only the cycle that compared writes the flags. -/
theorem compareFrame : Obligations.CompareFrame := by
  intro s t idx inl s0 s1 h
  rcases exec_compare_cases h with rfl | hfault
  · obtain ⟨_, _, hends, hrun, hexit, hvalues, hcalls, himage, hhost, hdraws⟩ :=
      s.compareCycle_frame idx inl s0 s1 (s.cellAt (slotAddr s0))
        (s.cellAt (lastAddr s.ip inl 2 s1))
    exact ⟨hexit, hvalues, hcalls, himage, hhost, hdraws, hends.runRegsKept hrun,
      hends.not_newly_faulted⟩
  · obtain ⟨hexit, hflags, hvalues, hcalls, himage, hhost, hdraws, hregs⟩ := hfault.kept
    exact ⟨hexit, hvalues, hcalls, himage, hhost, hdraws, hregs, fun _ _ => hflags⟩

/-! ### PUSH and POP -/

section
variable {s t : State} {idx : BitVec 7} {inl : Bool} {s0 : Byte}

/-- What a PUSH that answers `t` did. -/
theorem exec_push_cases (h : exec (.push idx inl s0) s = .next t) :
    t = s.stackCycle idx inl s0
      (Memory.write s.vstack s.vsp (s.cellAt (lastAddr s.ip inl 1 s0))) (s.vsp + 1) s.mem ∨
    ∃ code, FaultAfterDecode s t idx inl (.b1 s0) code := by
  rcases Nat.lt_or_ge s.len ((lastAddr s.ip inl 1 s0).toNat + 2) with hcell | hcell
  · exact .inr (faultAfterDecode_of_raised (exec_push s idx inl s0) (capPush_of_cell_out hcell) h)
  · rcases Nat.lt_or_ge s.vsp s.cfg.vstackCap with hroom | hfull
    · cases h.symm.trans (exec_push_of_room idx hcell hroom)
      exact .inl rfl
    · exact .inr (faultAfterDecode_of_raised (exec_push s idx inl s0)
        (capPush_of_full hcell hfull) h)

/-- What a POP that answers `t` did. -/
theorem exec_pop_cases (h : exec (.pop idx inl s0) s = .next t) :
    t = s.stackCycle idx inl s0 s.vstack (s.vsp - 1)
      (s.imageWithCell (lastAddr s.ip inl 1 s0) (Memory.read s.vstack (s.vsp - 1))) ∨
    ∃ code, FaultAfterDecode s t idx inl (.b1 s0) code := by
  rcases Nat.lt_or_ge s.len ((lastAddr s.ip inl 1 s0).toNat + 2) with hcell | hcell
  · exact .inr (faultAfterDecode_of_raised (exec_pop s idx inl s0) (capPop_of_cell_out hcell) h)
  · rcases Nat.eq_zero_or_pos s.vsp with hempty | hpos
    · exact .inr (faultAfterDecode_of_raised (exec_pop s idx inl s0)
        (capPop_of_empty hcell hempty) h)
    · cases h.symm.trans (exec_pop_of_pos idx hcell hpos)
      exact .inl rfl

end

/-- The part of the frame PUSH and POP share when neither raises. -/
theorem stackCycle_kept {s t : State} {idx : BitVec 7} {inl : Bool} {s0 : Byte}
    {st : List (Nat × Word)} {sp : Nat} {m : List Host.Cell}
    (h : t = s.stackCycle idx inl s0 st sp m) :
    t.exit = s.exit ∧ FlagsKept s t ∧ CallStackKept s t ∧ HostSideKept s t ∧ t.draws = s.draws ∧
      RunRegsKeptUnlessFaulted s t ∧ CycleEnds s t := by
  subst h
  obtain ⟨hrun, hexit, hflags, hcalls⟩ := s.stackCycle_runRegs idx inl s0 st sp m
  obtain ⟨hhost, hdraws⟩ := s.stackCycle_hostSide idx inl s0 st sp m
  have hends := s.stackCycle_cycleEnds idx inl s0 st sp m
  exact ⟨hexit, hflags, hcalls, hhost, hdraws, hends.runRegsKept hrun, hends⟩

/-- Settles O32: the one entry written is the one at the depth. -/
theorem pushFrame : Obligations.PushFrame := by
  intro s t idx inl s0 h
  rcases exec_push_cases h with hcycle | ⟨code, hfault⟩
  · obtain ⟨hexit, hflags, hcalls, hhost, hdraws, hregs, hends⟩ := stackCycle_kept hcycle
    refine ⟨hexit, hflags, hcalls, ?image, hhost, hdraws, hregs, fun n hn => ?entries,
      hends.not_newly_faulted⟩
    case image => simp [hcycle, ImageKept]
    case entries => rw [hcycle, State.stackCycle_vstack, Memory.read_write_of_ne _ _ hn]
  · obtain ⟨hexit, hflags, hvalues, hcalls, himage, hhost, hdraws, hregs⟩ := hfault.kept
    exact ⟨hexit, hflags, hcalls, himage, hhost, hdraws, hregs, fun n _ => hvalues.2 n,
      fun _ _ => hvalues⟩

/-- Settles O33: the bytes written are those of the cell, and the pop leaves the storage. -/
theorem popFrame : Obligations.PopFrame := by
  intro s t idx inl s0 h
  rcases exec_pop_cases h with hcycle | ⟨code, hfault⟩
  · obtain ⟨hexit, hflags, hcalls, hhost, hdraws, hregs, hends⟩ := stackCycle_kept hcycle
    refine ⟨hexit, hflags, hcalls, hhost, hdraws, hregs, ⟨?len, fun b hlow hhigh => ?outside⟩,
      fun n => ?entries, hends.not_newly_faulted⟩
    case len => rw [hcycle, State.stackCycle_len]
    case outside =>
      rw [hcycle, State.stackCycle_mem]
      exact Memory.read_writeCell_of_ne _ _ _ hlow hhigh
    case entries => rw [hcycle, State.stackCycle_vstack]
  · obtain ⟨hexit, hflags, hvalues, hcalls, himage, hhost, hdraws, hregs⟩ := hfault.kept
    exact ⟨hexit, hflags, hcalls, hhost, hdraws, hregs, ⟨himage.1, fun b _ _ => himage.2 b⟩,
      hvalues.2, fun _ _ => ⟨hvalues, himage⟩⟩

/-! ### CALL and RETURN -/

section
variable {s t : State} {idx : BitVec 7} {inl : Bool}

/-- What a CALL that answers `t` did. -/
theorem exec_call_cases {v : Word} (h : exec (.call idx inl v) s = .next t) :
    t = s.callCycle idx inl (.word v)
      (Memory.write s.cstack s.csp (if s.cfg.callPush = .returnAddr then advanced s 2 inl else v))
      (s.csp + 1) v ∨
    ∃ code, FaultAfterDecode s t idx inl (.word v) code := by
  rcases Nat.lt_or_ge s.csp s.cfg.cstackCap with hroom | hfull
  · cases h.symm.trans (exec_call_of_room idx inl v hroom)
    exact .inl rfl
  · exact .inr (faultAfterDecode_of_raised (exec_call s idx inl v) (capCall_of_full hfull) h)

/-- What a RETURN that answers `t` did. -/
theorem exec_ret_cases (h : exec (.ret idx inl) s = .next t) :
    t = s.callCycle idx inl .none s.cstack (s.csp - 1) (Memory.read s.cstack (s.csp - 1)) ∨
    ∃ code, FaultAfterDecode s t idx inl .none code := by
  rcases Nat.eq_zero_or_pos s.csp with hempty | hpos
  · exact .inr (faultAfterDecode_of_raised (exec_ret s idx inl) (capReturn_of_empty hempty) h)
  · cases h.symm.trans (exec_ret_of_pos idx inl hpos)
    exact .inl rfl

end

/-- What CALL and RETURN keep, when the entries of the call stack that `touched` allows are left out. -/
def CallInstrFrame (s t : State) (touched : Nat → Prop) : Prop :=
  t.exit = s.exit ∧ FlagsKept s t ∧ ValueStackKept s t ∧ ImageKept s t ∧ HostSideKept s t ∧
  t.draws = s.draws ∧ RunRegsKeptUnlessFaulted s t ∧
  (∀ n, ¬ touched n → Memory.read t.cstack n = Memory.read s.cstack n) ∧
  (s.phase ≠ .faulted → t.phase = .faulted → CallStackKept s t)

theorem CallCycleFrame.callInstrFrame {s t : State} {idx : BitVec 7} {inl : Bool}
    {ops : Operands} {touched : Nat → Prop} (h : CallCycleFrame s t idx inl ops)
    (hcalls : ∀ n, ¬ touched n → Memory.read t.cstack n = Memory.read s.cstack n) :
    CallInstrFrame s t touched := by
  obtain ⟨_, hends, hrun, hexit, hflags, hvalues, himage, hhost, hdraws⟩ := h
  exact ⟨hexit, hflags, hvalues, himage, hhost, hdraws, hends.runRegsKept hrun, hcalls,
    hends.not_newly_faulted⟩

theorem FaultAfterDecode.callInstrFrame {s t : State} {idx : BitVec 7} {inl : Bool}
    {ops : Operands} {code : BitVec 3} (h : FaultAfterDecode s t idx inl ops code)
    (touched : Nat → Prop) : CallInstrFrame s t touched := by
  obtain ⟨hexit, hflags, hvalues, hcalls, himage, hhost, hdraws, hregs⟩ := h.kept
  exact ⟨hexit, hflags, hvalues, himage, hhost, hdraws, hregs, fun n _ => hcalls.2 n,
    fun _ _ => hcalls⟩

theorem exec_call_frame {s t : State} {idx : BitVec 7} {inl : Bool} {v : Word}
    (h : exec (.call idx inl v) s = .next t) : CallInstrFrame s t (· = s.csp) := by
  rcases exec_call_cases h with rfl | ⟨code, hfault⟩
  · exact (State.callCycle_frame ..).callInstrFrame fun n hn => by
      rw [State.callCycle_cstack, Memory.read_write_of_ne _ _ hn]
  · exact hfault.callInstrFrame _

theorem exec_ret_frame {s t : State} {idx : BitVec 7} {inl : Bool}
    (h : exec (.ret idx inl) s = .next t) : CallInstrFrame s t fun _ => False := by
  rcases exec_ret_cases h with rfl | ⟨code, hfault⟩
  · exact (State.callCycle_frame ..).callInstrFrame fun n _ => by rw [State.callCycle_cstack]
  · exact hfault.callInstrFrame _

/-- Settles O34: CALL may touch the entry at the depth, RETURN none. -/
theorem callReturnFrame : Obligations.CallReturnFrame := by
  intro s t idx inl v i hi h
  simp only [List.mem_cons, List.not_mem_nil, or_false] at hi
  rcases hi with rfl | rfl
  · obtain ⟨hexit, hflags, hvalues, himage, hhost, hdraws, hregs, hcalls, hfaulted⟩ :=
      exec_call_frame h
    exact ⟨hexit, hflags, hvalues, himage, hhost, hdraws, hregs,
      fun n hn => hcalls n (hn.resolve_right Instr.noConfusion), hfaulted⟩
  · obtain ⟨hexit, hflags, hvalues, himage, hhost, hdraws, hregs, hcalls, hfaulted⟩ :=
      exec_ret_frame h
    exact ⟨hexit, hflags, hvalues, himage, hhost, hdraws, hregs, fun n _ => hcalls n id, hfaulted⟩

/-! ### The flags -/

/-- An instruction that may not write the flags leaves them. -/
theorem exec_flagsKept {s t : State} {i : Instr} (hi : mayWriteFlags i = false)
    (h : exec i s = .next t) : FlagsKept s t := by
  cases i with
  | compare | ext => cases hi
  | exit idx inl v | goto idx inl v | gotoEquals idx inl v | gotoNotEquals idx inl v
  | gotoGreater idx inl v | gotoLess idx inl v =>
    exact (jumpAndExitFrame s t idx inl v _ (by simp) h).1
  | push idx inl s0 =>
    obtain ⟨_, hflags, _⟩ := pushFrame s t idx inl s0 h
    exact hflags
  | pop idx inl s0 =>
    obtain ⟨_, hflags, _⟩ := popFrame s t idx inl s0 h
    exact hflags
  | call idx inl v =>
    obtain ⟨_, hflags, _⟩ := exec_call_frame h
    exact hflags
  | ret idx inl =>
    obtain ⟨_, hflags, _⟩ := exec_ret_frame h
    exact hflags
  | illegal idx inl =>
    cases (exec_illegal s idx inl).symm.trans h
    obtain ⟨_, _, hflags, _⟩ := raiseFault_faultInFetch s .invalidOpcode
    exact hflags

/-- Settles O35: the frames of the instructions, one by one, and COMPARE's when it faults. -/
theorem flagsPersist : Obligations.FlagsPersist := by
  intro s t i h
  refine ⟨fun hi => exec_flagsKept hi h, ?_⟩
  rintro idx inl s0 s1 rfl hs ht
  obtain ⟨_, _, _, _, _, _, _, hflags⟩ := compareFrame s t idx inl s0 s1 h
  exact hflags hs ht

end Sys2Proof.Machine

/-! Two accessors or instructions in a row: a cell read after a write, PUSH then POP, CALL then RETURN, and the inline POP
that writes the next opcode byte (20_memory.md sections 3 and 5, 70_reset_and_hazards.md section 4). -/

namespace Sys2Proof.Machine

/-! ### The image with one cell written -/

section
variable (s : State) (a v : Word)

theorem State.read_imageWithCell_low : Memory.read (s.imageWithCell a v) a.toNat = lowByte v :=
  Memory.read_writeCell_low ..

theorem State.read_imageWithCell_high :
    Memory.read (s.imageWithCell a v) (a.toNat + 1) = highByte v :=
  Memory.read_write_self ..

theorem State.read_imageWithCell_of_ne {b : Nat} (hlow : b ≠ a.toNat) (hhigh : b ≠ a.toNat + 1) :
    Memory.read (s.imageWithCell a v) b = Memory.read s.mem b :=
  Memory.read_writeCell_of_ne _ _ _ hlow hhigh

/-- A written cell reads back, in every state that holds its image. -/
theorem cellAt_of_imageWithCell {t : State} (ht : t.mem = s.imageWithCell a v) :
    t.cellAt a = v := by
  rw [State.cellAt, ht, s.read_imageWithCell_low, s.read_imageWithCell_high, wordOfBytes_high_low]

end

/-- Settles O51: the two bytes written, seen from the cell itself, from the one above it and from one beside it. -/
theorem cellReadsWhatWasWritten : Obligations.CellReadsWhatWasWritten := by
  intro s t a b v h
  obtain ⟨hin, ht⟩ := cellWrite_ok h
  have hmem : t.mem = s.imageWithCell a v := congrArg (·.mem) ht
  have hlen : t.len = s.len := congrArg (·.len) ht
  refine ⟨?same, fun hb hbin => ?above, fun hdisjoint => ?beside⟩
  case same => rw [cellRead_of_le (hlen ▸ hin), cellAt_of_imageWithCell s a v hmem]
  case above =>
    have hhigh : Memory.read t.mem b.toNat = highByte v := by
      rw [hmem, hb, s.read_imageWithCell_high]
    have hnext : Memory.read t.mem (b.toNat + 1) = Memory.read s.mem (b.toNat + 1) := by
      rw [hmem, s.read_imageWithCell_of_ne a v (by omega) (by omega)]
    rw [cellRead_of_le (hlen ▸ hbin), State.cellAt, hhigh, hnext]
    rfl
  case beside =>
    rw [cellRead_eq_ite, cellRead_eq_ite, hlen, hmem,
      s.read_imageWithCell_of_ne a v (by omega) (by omega),
      s.read_imageWithCell_of_ne a v (by omega) (by omega)]

/-! ### PUSH then POP -/

theorem toNat_slotAddr (b : Byte) : (slotAddr b).toNat = b.toNat := by
  have hb := b.isLt
  rw [slotAddr, BitVec.toNat_setWidth, Nat.mod_eq_of_lt (by omega)]

/-- The state a PUSH with its cell in range and room leaves, as far as a POP looks at it. -/
theorem exec_push_top {s t : State} {idx : BitVec 7} {inl : Bool} {s0 : Byte}
    (hcell : (lastAddr s.ip inl 1 s0).toNat + 2 ≤ s.len) (hroom : s.vsp < s.cfg.vstackCap)
    (h : exec (.push idx inl s0) s = .next t) :
    t.vsp = s.vsp + 1 ∧ Memory.read t.vstack s.vsp = s.cellAt (lastAddr s.ip inl 1 s0) ∧
      t.mem = s.mem ∧ t.len = s.len := by
  cases h.symm.trans (exec_push_of_room idx hcell hroom)
  simp

/-- The state a POP with its cell in range and an entry leaves: the popped word in the cell. -/
theorem exec_pop_cell {s t : State} {idx : BitVec 7} {inl : Bool} {s0 : Byte}
    (hcell : (lastAddr s.ip inl 1 s0).toNat + 2 ≤ s.len) (hpos : 0 < s.vsp)
    (h : exec (.pop idx inl s0) s = .next t) :
    t.vsp = s.vsp - 1 ∧ t.len = s.len ∧ t.ip = advanced s 1 inl ∧
      t.mem = s.imageWithCell (lastAddr s.ip inl 1 s0) (Memory.read s.vstack (s.vsp - 1)) := by
  cases h.symm.trans (exec_pop_of_pos idx hcell hpos)
  simp

/-- Settles O53: the POP finds on top what the PUSH read. -/
theorem pushThenPopCopiesACell : Obligations.PushThenPopCopiesACell := by
  intro s t u i j a b _ ha hb hroom hpush hpop
  rw [← toNat_slotAddr] at ha hb
  obtain ⟨htvsp, httop, htmem, htlen⟩ := exec_push_top (inl := false) ha hroom hpush
  obtain ⟨huvsp, hulen, _, humem⟩ := exec_pop_cell (inl := false) (s0 := b)
    (by rw [htlen]; exact hb) (by omega) hpop
  have htop : Memory.read t.vstack (t.vsp - 1) = s.cellAt (slotAddr a) := by
    rw [htvsp, Nat.add_sub_cancel]
    exact httop
  rw [htop] at humem
  refine ⟨cellAt_of_imageWithCell t _ _ humem, by omega, hulen.trans htlen,
    fun n hlow hhigh => ?_⟩
  rw [humem, ← htmem]
  exact t.read_imageWithCell_of_ne _ _ hlow hhigh

/-! ### CALL then RETURN -/

/-- Settles O54: the RETURN finds on top the continuation the CALL pushed. -/
theorem callThenReturnResumes : Obligations.CallThenReturnResumes := by
  intro s t u w i j inl inl' v _ hroom hcall hucsp hulive hret
  cases hcall.symm.trans (exec_call_of_room i inl v hroom)
  rw [State.callCycle_csp] at hucsp hulive
  have htop := hulive s.csp (Nat.lt_succ_self _)
  rw [State.callCycle_cstack, Memory.read_write_self] at htop
  cases hret.symm.trans (exec_ret_of_pos j inl' (by omega))
  refine ⟨by rw [State.callCycle_csp]; omega, ?_⟩
  rw [State.callCycle_ip, hucsp, Nat.add_sub_cancel, htop]

/-! ### The inline POP -/

/-- Settles O55: the embedded cell's high byte is the byte the advance goes to. -/
theorem inlinePopRewritesTheNextOpcode : Obligations.InlinePopRewritesTheNextOpcode := by
  intro s t idx s0 hinv hready hextra hin hpos hpop
  have hip := ip_lt_of_inv hinv hready
  have hcell : (lastAddr s.ip true 1 s0).toNat = s.ip.toNat + 2 := embeddedAddr_toNat hip .b1
  have hnext : (advanced s 1 true).toNat = s.ip.toNat + 3 := by
    have hlength : instrLength s.cfg.inlineExtra .b1 true = 3 := by
      rw [hextra]
      rfl
    rw [← hlength, ← advancedIp_toNat hip, advancedIp_eq]
    rfl
  obtain ⟨_, _, htip, htmem⟩ := exec_pop_cell (by omega) hpos hpop
  have hhigh : s.ip.toNat + 3 = (lastAddr s.ip true 1 s0).toNat + 1 := by omega
  rw [htip, htmem, hnext, hhigh]
  exact ⟨rfl, s.read_imageWithCell_high _ _⟩

end Sys2Proof.Machine

/-! Both stacks beside a plain list (10_state.md rules R36 to R40): what makes a pair of accessors a bounded stack, and one
induction over the sequence for every such pair. -/

namespace Sys2Proof.Machine

/-! ### The live entries -/

theorem length_liveEntries (st : List (Nat × Word)) (n : Nat) : (liveEntries st n).length = n := by
  induction n with
  | zero => rfl
  | succ n ih => simp [liveEntries, ih]

/-- A write at or above the depth is not among the live entries. -/
theorem liveEntries_write_of_le (st : List (Nat × Word)) {n a : Nat} (v : Word) (h : n ≤ a) :
    liveEntries (Memory.write st a v) n = liveEntries st n := by
  induction n with
  | zero => rfl
  | succ n ih =>
    rw [liveEntries, liveEntries, ih (by omega), Memory.read_write_of_ne _ _ (by omega)]

theorem liveEntries_pushed (st : List (Nat × Word)) (n : Nat) (v : Word) :
    liveEntries (Memory.write st n v) (n + 1) = v :: liveEntries st n := by
  rw [liveEntries, Memory.read_write_self, liveEntries_write_of_le st v le_rfl]

theorem liveEntries_of_pos (st : List (Nat × Word)) {n : Nat} (h : 0 < n) :
    liveEntries st n = Memory.read st (n - 1) :: liveEntries st (n - 1) := by
  obtain ⟨m, rfl⟩ : ∃ m, n = m + 1 := ⟨n - 1, by omega⟩
  rfl

/-! ### A bounded stack -/

/-- `push` and `pop` work on the list `live s`, the top one first, which holds at most `cap s` entries. -/
structure BoundedStack (push : State → Word → Except FaultKind State)
    (pop : State → Except FaultKind (Word × State)) (live : State → List Word)
    (cap : State → Nat) (full empty : FaultKind) : Prop where
  push_room : ∀ s v, (live s).length < cap s →
    ∃ t, push s v = .ok t ∧ live t = v :: live s ∧ cap t = cap s
  push_full : ∀ s v, ¬ (live s).length < cap s → push s v = .error full
  pop_cons : ∀ s v rest, live s = v :: rest →
    ∃ t, pop s = .ok (v, t) ∧ live t = rest ∧ cap t = cap s
  pop_nil : ∀ s, live s = [] → pop s = .error empty

/-- A sequence of pushes and pops with the accessors given. -/
def stackRun (push : State → Word → Except FaultKind State)
    (pop : State → Except FaultKind (Word × State)) (s : State) :
    List StackOp → Except FaultKind (List Word × State)
  | [] => .ok ([], s)
  | .push v :: ops => (push s v).bind fun t => stackRun push pop t ops
  | .pop :: ops => (pop s).bind fun p =>
    (stackRun push pop p.2 ops).map fun q => (p.1 :: q.1, q.2)

theorem valueStackRun_eq_stackRun (s : State) (ops : List StackOp) :
    valueStackRun s ops = stackRun vPush vPop s ops := by
  induction ops generalizing s with
  | nil => rfl
  | cons op ops ih =>
    cases op with
    | push v =>
      rw [valueStackRun, stackRun]
      cases vPush s v with
      | error k => rfl
      | ok t => exact ih t
    | pop =>
      rw [valueStackRun, stackRun]
      cases vPop s with
      | error k => rfl
      | ok p => exact congrArg (Except.map _) (ih p.2)

theorem callStackRun_eq_stackRun (s : State) (ops : List StackOp) :
    callStackRun s ops = stackRun cPush cPop s ops := by
  induction ops generalizing s with
  | nil => rfl
  | cons op ops ih =>
    cases op with
    | push v =>
      rw [callStackRun, stackRun]
      cases cPush s v with
      | error k => rfl
      | ok t => exact ih t
    | pop =>
      rw [callStackRun, stackRun]
      cases cPop s with
      | error k => rfl
      | ok p => exact congrArg (Except.map _) (ih p.2)

/-- A bounded stack refines the plain list, for every sequence. -/
theorem BoundedStack.stackRun_eq_listRun {push : State → Word → Except FaultKind State}
    {pop : State → Except FaultKind (Word × State)} {live : State → List Word}
    {cap : State → Nat} {full empty : FaultKind}
    (h : BoundedStack push pop live cap full empty) (s : State) (ops : List StackOp) :
    (stackRun push pop s ops).map (fun p => (p.1, live p.2)) =
      listRun (cap s) full empty (live s) ops := by
  induction ops generalizing s with
  | nil => rfl
  | cons op ops ih =>
    cases op with
    | push v =>
      rw [stackRun, listRun]
      split
      case isTrue hroom =>
        obtain ⟨t, ht, hlive, hcap⟩ := h.push_room s v hroom
        rw [ht, ← hlive, ← hcap, ← ih]
        rfl
      case isFalse hfull =>
        rw [h.push_full s v hfull]
        rfl
    | pop =>
      rw [stackRun]
      cases hs : live s with
      | nil =>
        rw [h.pop_nil s hs]
        rfl
      | cons v rest =>
        obtain ⟨t, ht, hlive, hcap⟩ := h.pop_cons s v rest hs
        rw [ht, listRun, ← hlive, ← hcap, ← ih]
        show ((stackRun push pop t ops).map _).map _ = ((stackRun push pop t ops).map _).map _
        cases stackRun push pop t ops <;> rfl

/-! ### The two stacks -/

theorem valueStack_bounded : BoundedStack vPush vPop (fun s => liveEntries s.vstack s.vsp)
    (fun s => s.cfg.vstackCap) .vstackOverflow .vstackUnderflow where
  push_room s v hroom := by
    rw [length_liveEntries] at hroom
    exact ⟨_, vPush_of_lt v hroom, liveEntries_pushed .., rfl⟩
  push_full s v hfull := by
    rw [length_liveEntries, Nat.not_lt] at hfull
    exact vPush_of_ge v hfull
  pop_cons s v rest hs := by
    have hpos : 0 < s.vsp := by
      rw [← length_liveEntries s.vstack s.vsp, hs]
      exact Nat.succ_pos _
    obtain ⟨rfl, rfl⟩ := List.cons.inj ((liveEntries_of_pos _ hpos).symm.trans hs)
    exact ⟨_, vPop_of_pos hpos, rfl, rfl⟩
  pop_nil s hs := vPop_of_zero (by rw [← length_liveEntries s.vstack s.vsp, hs]; rfl)

theorem callStack_bounded : BoundedStack cPush cPop (fun s => liveEntries s.cstack s.csp)
    (fun s => s.cfg.cstackCap) .cstackOverflow .cstackUnderflow where
  push_room s v hroom := by
    rw [length_liveEntries] at hroom
    exact ⟨_, cPush_of_lt v hroom, liveEntries_pushed .., rfl⟩
  push_full s v hfull := by
    rw [length_liveEntries, Nat.not_lt] at hfull
    exact cPush_of_ge v hfull
  pop_cons s v rest hs := by
    have hpos : 0 < s.csp := by
      rw [← length_liveEntries s.cstack s.csp, hs]
      exact Nat.succ_pos _
    obtain ⟨rfl, rfl⟩ := List.cons.inj ((liveEntries_of_pos _ hpos).symm.trans hs)
    exact ⟨_, cPop_of_pos hpos, rfl, rfl⟩
  pop_nil s hs := cPop_of_zero (by rw [← length_liveEntries s.cstack s.csp, hs]; rfl)

/-- Settles O52: each of the two is a bounded stack. -/
theorem stacksAreLastInFirstOut : Obligations.StacksAreLastInFirstOut := by
  intro s ops
  rw [valueStackRun_eq_stackRun, callStackRun_eq_stackRun]
  exact ⟨valueStack_bounded.stackRun_eq_listRun s ops, callStack_bounded.stackRun_eq_listRun s ops⟩

end Sys2Proof.Machine

/-! EXT(k) (46_capability.md): what each part of a host capability does, and how the cycle around it ends. -/

namespace Sys2Proof.Machine

/-! ### The parts of a given capability -/

section
variable {k : BitVec 7} {s : State} {results : List Word} {c : CapCall CapExpr CapExpr}
  {next : CapBody}

theorem runBody_call_of_error {f : FaultKind}
    (h : capAction s (groundCall s results c) = .error f) :
    runBody k (.call c next) results s = some (.raised f s) := by
  simp only [runBody, h]

theorem runBody_call_of_ok {t : State} (h : capAction s (groundCall s results c) = .ok t) :
    runBody k (.call c next) results s =
      runBody k next (capAnswers s (groundCall s results c) ++ results) t := by
  simp only [runBody, h]

end

theorem runBody_branch (k : BitVec 7) (s : State) (results : List Word) (c : CapExpr)
    (x y : CapBody) :
    runBody k (.branch c x y) results s =
      runBody k (if evalCapExpr s results c = 0 then y else x) results s := by
  by_cases hc : evalCapExpr s results c = 0
  · rw [if_pos hc, runBody, if_neg (not_not.2 hc)]
  · rw [if_neg hc, runBody, if_pos hc]

theorem runBody_choose (k : BitVec 7) (s : State) (results : List Word) (x y : CapBody) :
    runBody k (.choose x y) results s =
      runBody k (if Config.freeChoice s.draws = true then x else y) results s.countDraw := by
  cases hc : Config.freeChoice s.draws <;> simp [runBody, hc]

/-! ### Lists of actions -/

theorem runActions_of_error {s : State} {a : CapAction} {k : FaultKind}
    (h : capAction s a = .error k) (rest : List CapAction) :
    runActions s (a :: rest) = .raised k s := by
  simp only [runActions, h]

theorem runActions_of_ok {s t : State} {a : CapAction} (h : capAction s a = .ok t)
    (rest : List CapAction) : runActions s (a :: rest) = runActions t rest := by
  simp only [runActions, h]

/-- A list of actions given as a body runs as the list does, whatever was answered before. -/
theorem runBody_bodyOfActions (k : BitVec 7) (s : State) (results : List Word)
    (as : List CapAction) :
    runBody k (bodyOfActions as) results s = some (runActions s as) := by
  induction as generalizing s results with
  | nil => rfl
  | cons a rest ih =>
    rw [bodyOfActions]
    cases ha : capAction s a with
    | error f =>
      rw [runBody_call_of_error (by rw [groundCall_of_action, ha]), runActions_of_error ha]
    | ok t => rw [runBody_call_of_ok (by rw [groundCall_of_action, ha]), ih, runActions_of_ok ha]

theorem runActions_append {s u : State} {done : List CapAction}
    (h : runActions s done = .returned u) (rest : List CapAction) :
    runActions s (done ++ rest) = runActions u rest := by
  induction done generalizing s with
  | nil =>
    cases h
    rfl
  | cons a done ih =>
    cases ha : capAction s a with
    | error k => cases (runActions_of_error ha done).symm.trans h
    | ok t =>
      rw [List.cons_append, runActions_of_ok ha]
      exact ih ((runActions_of_ok ha done).symm.trans h)

/-! ### What an accessor call does and answers -/

theorem capAction_readCell (s : State) (a : Word) :
    capAction s (.readCell a) =
      if a.toNat + 2 ≤ s.len then .ok s else .error .cellOutOfRange := by
  split
  case isTrue hin => simp only [capAction, cellRead_of_le hin, Except.map]
  case isFalse hout => simp only [capAction, cellRead_of_gt (Nat.not_le.1 hout), Except.map]

theorem capAction_popValue_of_ok {s t : State} {v : Word} (h : vPop s = .ok (v, t)) :
    capAction s .popValue = .ok t := by
  simp only [capAction, h, Except.map]

theorem capAction_popCall_of_ok {s t : State} {v : Word} (h : cPop s = .ok (v, t)) :
    capAction s .popCall = .ok t := by
  simp only [capAction, h, Except.map]

theorem capAction_popValue_of_zero {s : State} (h : s.vsp = 0) :
    capAction s .popValue = .error .vstackUnderflow := by
  simp only [capAction, vPop_of_zero h, Except.map]

theorem capAction_popCall_of_zero {s : State} (h : s.csp = 0) :
    capAction s .popCall = .error .cstackUnderflow := by
  simp only [capAction, cPop_of_zero h, Except.map]

theorem capAnswers_readCell {s : State} {a v : Word} (h : cellRead s a = .ok v) :
    capAnswers s (.readCell a) = [v] := by
  simp [capAnswers, h, Except.toOption]

theorem capAnswers_popValue {s t : State} {v : Word} (h : vPop s = .ok (v, t)) :
    capAnswers s .popValue = [v] := by
  simp [capAnswers, h, Except.toOption, Except.map]

theorem capAnswers_popCall {s t : State} {v : Word} (h : cPop s = .ok (v, t)) :
    capAnswers s .popCall = [v] := by
  simp [capAnswers, h, Except.toOption, Except.map]

/-- Settles O28: lists of actions, the other parts, and each action's register or accessor. -/
theorem hostCapabilityActionEffects : Obligations.HostCapabilityActionEffects :=
  ⟨runBody_bodyOfActions,
    fun k s results c x y => ⟨rfl, runBody_branch k s results c x y,
      runBody_choose k s results x y, rfl⟩,
    fun s _ a _ => ⟨rfl, rfl, rfl, rfl, rfl, rfl, rfl, rfl, rfl, rfl, rfl, rfl,
      capAction_readCell s a, rfl, rfl, fun _ _ => capAction_popValue_of_ok,
      fun _ _ => capAction_popCall_of_ok, capAction_popValue_of_zero, capAction_popCall_of_zero⟩⟩

/-- Settles O29: the state of the actions done is the one the next action raises in. -/
theorem hostCapabilityPartialWritesStay : Obligations.HostCapabilityPartialWritesStay := by
  refine ⟨fun s u done rest a k hdone ha => ?_, fun idx s results c next =>
    ⟨fun k => runBody_call_of_error, fun t => runBody_call_of_ok,
      fun a v => capAnswers_readCell, fun v t => capAnswers_popValue,
      fun v t => capAnswers_popCall⟩⟩
  rw [runActions_append hdone, runActions_of_error ha]

/-! ### The cycle of EXT(k) -/

/-- The frame of a capability holds around the whole of steps 4 to 6. -/
theorem capHost_bounded {s : State} {idx : BitVec 7} {inl : Bool} {ops : Operands}
    {o : CapOutcome} (h : capHost idx (s.decoded idx inl ops) = some o) : CapBounded s o :=
  CapBounded.of_frame (CapFrame.decoded s idx inl ops) (runBody_bounded _ _ h)

@[simp] theorem finishCycle_draws (ip0 : Word) (o : CapOutcome) :
    (finishCycle ip0 o).draws = o.state.draws := by
  cases o <;> simp [finishCycle, CapOutcome.state]

theorem finishCycle_latches (ip0 : Word) (o : CapOutcome) :
    (finishCycle ip0 o).curIdx = o.state.curIdx ∧
      (finishCycle ip0 o).curInl = o.state.curInl := by
  cases o <;> simp [finishCycle, CapOutcome.state]

/-- An unknown capability takes the actions of the free value, and its cycle counts one draw. -/
theorem capHost_of_unknown {s : State} {idx : BitVec 7} (inl : Bool) (ops : Operands)
    (h : bodyAt s.cfg.table idx = .unknown) :
    capHost idx (s.decoded idx inl ops) =
      some (runActions (s.decoded idx inl ops).countDraw
        (Config.hostCapability idx (capView (s.decoded idx inl ops)) s.draws)) := by
  rw [capHost, decoded_cfg, h, runBody, decoded_draws]

/-- Settles O26: the outcome of the body, then steps 7 and 8 or fault entry, as `finishCycle` has them. -/
theorem hostCapabilityRunsItsActions : Obligations.HostCapabilityRunsItsActions := by
  intro s idx inl ops d body
  refine ⟨fun hsafe => ?safe, ?outcome, fun hunknown => ?unknown⟩
  case safe =>
    obtain ⟨o, ho⟩ := runBody_ends idx body [] d hsafe
    exact ⟨_, execExt_of_some ho⟩
  case outcome =>
    split
    case h_1 hhang => exact execExt_of_none hhang
    case h_2 u hret =>
      have hu : CapFrame s u := capHost_bounded hret
      exact ⟨_, execExt_of_some hret, finishCycle_returned s.ip hu.phase
        ⟨hu.faultKind, hu.faultIp⟩ hu.tracePort hu.resultPort hu.cfg⟩
    case h_3 k u hraised =>
      obtain ⟨hu, _⟩ : CapBounded s (.raised k u) := capHost_bounded hraised
      exact ⟨_, execExt_of_some hraised, rfl, rfl, rfl, rfl,
        congrArg (_ :: ·) hu.resultPort, hu.tracePort, rfl⟩
  case unknown =>
    have hrun := capHost_of_unknown inl ops hunknown
    refine ⟨hrun, _, execExt_of_some hrun, ?_⟩
    obtain ⟨_, _, hdraws⟩ := runActions_latches
      (Config.hostCapability idx (capView d) s.draws) d.countDraw
    rw [finishCycle_draws, hdraws]
    rfl

theorem CycleEnds.phase_mem {s t : State} (h : CycleEnds s t) :
    t.phase = .halted ∨ t.phase = .ended ∨ t.phase = s.phase := by
  obtain ⟨_, _, hend⟩ := h
  split_ifs at hend <;> simp [(Prod.mk.inj hend).1]

theorem FaultKind.code_mem_of_ofAccessor {k : FaultKind} (h : k.ofAccessor = true) :
    k.code ∈ [3, 4, 5, 6, 7] := by
  cases k <;> revert h <;> decide

/-- Settles O27: the frame and the latches of every outcome, kept by both ends of the cycle. -/
theorem hostCapabilityStaysInItsFrame : Obligations.HostCapabilityStaysInItsFrame := by
  intro s t idx inl ops h
  have hresult := exec_cycleResult h
  obtain ⟨hcfg, hlen, hpending, hreplies⟩ := hresult.hostSide
  cases ho : capHost idx (s.decoded idx inl ops) with
  | none => cases (execExt_of_none ho).symm.trans h
  | some o =>
    cases (execExt_of_some ho).symm.trans h
    obtain ⟨hidx, hinl⟩ := finishCycle_latches s.ip o
    obtain ⟨hidx', hinl'⟩ := runBody_latches _ _ ho
    refine ⟨hlen, fun a => hresult.read_of_len_le, ⟨hcfg, hpending, hreplies⟩,
      hidx.trans hidx', hinl.trans hinl', ?_⟩
    cases o with
    | returned u =>
      have hends : CycleEnds s (endCheck (emitTrace u)) :=
        CapFrame.cycleEnds (capHost_bounded ho)
      have hphase := hends.phase_mem
      obtain ⟨⟨hkind, hip⟩, _⟩ := hends
      exact .inl ⟨hkind, hip, hphase⟩
    | raised k u =>
      obtain ⟨_, hk⟩ : CapBounded s (.raised k u) := capHost_bounded ho
      exact .inr ⟨rfl, rfl, rfl, FaultKind.code_mem_of_ofAccessor hk⟩

end Sys2Proof.Machine

/-! What a cycle does not observe: the bytes at `len` and above (20_memory.md section 1), and `TRACE_EN` with the trace port
(40_dispatch.md rule R109). Both are one simulation. A state is compared with the same state under another image, another
`TRACE_EN` and another trace port, for a relation of images that accessors cannot tell apart; the first statement takes
agreement below `len` for it, the second equality. -/

namespace Sys2Proof.Machine

/-- `R` relates images that no read below `n` tells apart, and every write keeps it. -/
structure ImageTwins (n : Nat) (R : Memory 8 → Memory 8 → Prop) : Prop where
  read : ∀ {m m' : Memory 8}, R m m' → ∀ a, a < n → Memory.read m' a = Memory.read m a
  write : ∀ {m m' : Memory 8}, R m m' → ∀ a v, R (Memory.write m a v) (Memory.write m' a v)

/-- The two images read alike below `n`. -/
def AgreeBelow (n : Nat) (m m' : Memory 8) : Prop :=
  ∀ a, a < n → Memory.read m' a = Memory.read m a

theorem imageTwins_agreeBelow (n : Nat) : ImageTwins n (AgreeBelow n) where
  read h := h
  write h a v b hb := by rw [Memory.read_write, Memory.read_write, h b hb]

theorem imageTwins_eq (n : Nat) : ImageTwins n Eq where
  read h _ _ := by rw [h]
  write h _ _ := by rw [h]

/-- `m` can stand in the place of the image of `s`, whose logical end is `n`. -/
def Twin (n : Nat) (R : Memory 8 → Memory 8 → Prop) (s : State) (m : Memory 8) : Prop :=
  s.len = n ∧ R s.mem m

/-- `s` with another image, another `TRACE_EN` and another trace port. -/
def State.veiled (s : State) (m : Memory 8) (b : Bool) (ev : List TraceEvent) : State :=
  { s with mem := m, cfg := { s.cfg with traceEn := b }, tracePort := ev }

section
variable (s : State) (m : Memory 8) (b : Bool) (ev : List TraceEvent)

theorem State.veiled_addr0 : (s.veiled m b ev).addr0 = s.addr0 := rfl

theorem State.veiled_addr1 : (s.veiled m b ev).addr1 = s.addr1 := rfl

theorem State.veiled_draws : (s.veiled m b ev).draws = s.draws := rfl

end

/-- The same for the state a capability ended in. -/
def CapOutcome.veiled (m : Memory 8) (b : Bool) (ev : List TraceEvent) : CapOutcome → CapOutcome
  | .returned s => .returned (s.veiled m b ev)
  | .raised k s => .raised k (s.veiled m b ev)

section
variable {n : Nat} {R : Memory 8 → Memory 8 → Prop} {b : Bool} {ev : List TraceEvent}
  {s : State} {m : Memory 8}

/-! ### The accessors -/

theorem cellAt_veiled (hR : ImageTwins n R) (h : Twin n R s m) {a : Word}
    (ha : a.toNat + 2 ≤ s.len) : (s.veiled m b ev).cellAt a = s.cellAt a := by
  obtain ⟨hlen, hm⟩ := h
  rw [State.cellAt, State.cellAt]
  exact congrArg₂ wordOfBytes (hR.read hm _ (by omega)) (hR.read hm _ (by omega))

theorem cellRead_veiled (hR : ImageTwins n R) (h : Twin n R s m) (a : Word) :
    cellRead (s.veiled m b ev) a = cellRead s a := by
  rcases Nat.lt_or_ge s.len (a.toNat + 2) with hout | hin
  · rw [cellRead_of_gt hout, cellRead_of_gt (s := s.veiled m b ev) hout]
  · rw [cellRead_of_le hin, cellRead_of_le (s := s.veiled m b ev) hin, cellAt_veiled hR h hin]

theorem Twin.imageWithCell (hR : ImageTwins n R) (h : Twin n R s m) (a v : Word) :
    Twin n R (s.setMem (s.imageWithCell a v)) ((s.veiled m b ev).imageWithCell a v) :=
  ⟨h.1, hR.write (hR.write h.2 _ _) _ _⟩

/-- An accessor call on the veiled state goes as on the state itself. -/
def CallVeiled (n : Nat) (R : Memory 8 → Memory 8 → Prop) (b : Bool) (ev : List TraceEvent)
    (e e' : Except FaultKind State) : Prop :=
  (∃ k, e = .error k ∧ e' = .error k) ∨
  ∃ t m', e = .ok t ∧ e' = .ok (t.veiled m' b ev) ∧ Twin n R t m'

theorem cellWrite_veiled (hR : ImageTwins n R) (h : Twin n R s m) (a v : Word) :
    CallVeiled n R b ev (cellWrite s a v) (cellWrite (s.veiled m b ev) a v) := by
  rcases Nat.lt_or_ge s.len (a.toNat + 2) with hout | hin
  · exact .inl ⟨_, cellWrite_of_gt v hout, cellWrite_of_gt (s := s.veiled m b ev) v hout⟩
  · exact .inr ⟨_, _, cellWrite_of_le v hin, cellWrite_of_le (s := s.veiled m b ev) v hin,
      h.imageWithCell hR a v⟩

theorem vPush_veiled (h : Twin n R s m) (v : Word) :
    CallVeiled n R b ev (vPush s v) (vPush (s.veiled m b ev) v) := by
  rcases Nat.lt_or_ge s.vsp s.cfg.vstackCap with hroom | hfull
  · exact .inr ⟨_, m, vPush_of_lt v hroom, vPush_of_lt (s := s.veiled m b ev) v hroom, h⟩
  · exact .inl ⟨_, vPush_of_ge v hfull, vPush_of_ge (s := s.veiled m b ev) v hfull⟩

theorem cPush_veiled (h : Twin n R s m) (v : Word) :
    CallVeiled n R b ev (cPush s v) (cPush (s.veiled m b ev) v) := by
  rcases Nat.lt_or_ge s.csp s.cfg.cstackCap with hroom | hfull
  · exact .inr ⟨_, m, cPush_of_lt v hroom, cPush_of_lt (s := s.veiled m b ev) v hroom, h⟩
  · exact .inl ⟨_, cPush_of_ge v hfull, cPush_of_ge (s := s.veiled m b ev) v hfull⟩

/-- What a pop answers, the value with the state. -/
theorem vPop_veiled (s : State) (m : Memory 8) (b : Bool) (ev : List TraceEvent) :
    vPop (s.veiled m b ev) = (vPop s).map fun p => (p.1, p.2.veiled m b ev) := by
  rcases Nat.eq_zero_or_pos s.vsp with hempty | hpos
  · rw [vPop_of_zero hempty, vPop_of_zero (s := s.veiled m b ev) hempty]
    rfl
  · rw [vPop_of_pos hpos, vPop_of_pos (s := s.veiled m b ev) hpos]
    rfl

theorem cPop_veiled (s : State) (m : Memory 8) (b : Bool) (ev : List TraceEvent) :
    cPop (s.veiled m b ev) = (cPop s).map fun p => (p.1, p.2.veiled m b ev) := by
  rcases Nat.eq_zero_or_pos s.csp with hempty | hpos
  · rw [cPop_of_zero hempty, cPop_of_zero (s := s.veiled m b ev) hempty]
    rfl
  · rw [cPop_of_pos hpos, cPop_of_pos (s := s.veiled m b ev) hpos]
    rfl

/-! ### The actions of a host capability -/

theorem capAction_veiled (hR : ImageTwins n R) (h : Twin n R s m) (a : CapAction) :
    CallVeiled n R b ev (capAction s a) (capAction (s.veiled m b ev) a) := by
  cases a with
  | readCell a =>
    rw [capAction_readCell, capAction_readCell]
    by_cases hin : a.toNat + 2 ≤ s.len
    · exact .inr ⟨s, m, if_pos hin, if_pos hin, h⟩
    · exact .inl ⟨_, if_neg hin, if_neg hin⟩
  | writeCell a v => exact cellWrite_veiled hR h a v
  | pushValue v => exact vPush_veiled h v
  | pushCall v => exact cPush_veiled h v
  | popValue =>
    rcases Nat.eq_zero_or_pos s.vsp with hempty | hpos
    · exact .inl ⟨_, capAction_popValue_of_zero hempty,
        capAction_popValue_of_zero (s := s.veiled m b ev) hempty⟩
    · exact .inr ⟨_, m, capAction_popValue_of_ok (vPop_of_pos hpos),
        capAction_popValue_of_ok (vPop_of_pos (s := s.veiled m b ev) hpos), h⟩
  | popCall =>
    rcases Nat.eq_zero_or_pos s.csp with hempty | hpos
    · exact .inl ⟨_, capAction_popCall_of_zero hempty,
        capAction_popCall_of_zero (s := s.veiled m b ev) hempty⟩
    · exact .inr ⟨_, m, capAction_popCall_of_ok (cPop_of_pos hpos),
        capAction_popCall_of_ok (cPop_of_pos (s := s.veiled m b ev) hpos), h⟩
  | setAddr i v =>
    match i with
    | 0 | 1 | 2 => exact .inr ⟨_, m, rfl, rfl, h⟩
  | setIp | setImm | setEq | setNe | setGt | setLt | setRunning | setExit =>
    exact .inr ⟨_, m, rfl, rfl, h⟩

theorem capAnswers_veiled (hR : ImageTwins n R) (h : Twin n R s m) (a : CapAction) :
    capAnswers (s.veiled m b ev) a = capAnswers s a := by
  cases a with
  | readCell a => rw [capAnswers, capAnswers, cellRead_veiled hR h]
  | popValue =>
    rw [capAnswers, capAnswers, vPop_veiled]
    cases vPop s <;> rfl
  | popCall =>
    rw [capAnswers, capAnswers, cPop_veiled]
    cases cPop s <;> rfl
  | writeCell | pushValue | pushCall | setIp | setImm | setAddr | setEq | setNe | setGt | setLt
  | setRunning | setExit => rfl

theorem evalCapExpr_veiled (s : State) (m : Memory 8) (b : Bool) (ev : List TraceEvent)
    (results : List Word) (e : CapExpr) :
    evalCapExpr (s.veiled m b ev) results e = evalCapExpr s results e := by
  induction e with
  | word | result => rfl
  | reg r => cases r <;> rfl
  | op o x y ihx ihy => rw [evalCapExpr, evalCapExpr, ihx, ihy]

theorem groundCall_veiled (s : State) (m : Memory 8) (b : Bool) (ev : List TraceEvent)
    (results : List Word) (c : CapCall CapExpr CapExpr) :
    groundCall (s.veiled m b ev) results c = groundCall s results c := by
  have heval : evalCapExpr (s.veiled m b ev) results = evalCapExpr s results :=
    funext (evalCapExpr_veiled s m b ev results)
  rw [groundCall, groundCall, heval]

/-- A capability is shown the bytes below `len` only. -/
theorem capView_veiled (hR : ImageTwins n R) (h : Twin n R s m) :
    capView (s.veiled m b ev) = capView s := by
  obtain ⟨hlen, hm⟩ := h
  have himage : (List.range s.len).map (Memory.read m) =
      (List.range s.len).map (Memory.read s.mem) :=
    List.map_congr_left fun a ha => hR.read hm a (hlen ▸ List.mem_range.1 ha)
  rw [capView, capView]
  exact congrArg (fun image => { capView s with image := image }) himage

/-! ### The capabilities -/

/-- The veiled outcome, for some image that can stand in the place of the one left. -/
def OutcomeVeiled (n : Nat) (R : Memory 8 → Memory 8 → Prop) (b : Bool) (ev : List TraceEvent)
    (o o' : CapOutcome) : Prop :=
  ∃ m', Twin n R o.state m' ∧ o' = o.veiled m' b ev

theorem runActions_veiled (hR : ImageTwins n R) (h : Twin n R s m) (as : List CapAction) :
    OutcomeVeiled n R b ev (runActions s as) (runActions (s.veiled m b ev) as) := by
  induction as generalizing s m with
  | nil => exact ⟨m, h, rfl⟩
  | cons a rest ih =>
    rcases capAction_veiled hR h a with ⟨k, hs, hv⟩ | ⟨t, m', hs, hv, ht⟩
    · rw [runActions_of_error hs, runActions_of_error hv]
      exact ⟨m, h, rfl⟩
    · rw [runActions_of_ok hs, runActions_of_ok hv]
      exact ih ht

theorem runBody_veiled (hR : ImageTwins n R) (k : BitVec 7) (body : CapBody)
    (results : List Word) {o : CapOutcome} (h : Twin n R s m)
    (ho : runBody k body results s = some o) :
    ∃ o', runBody k body results (s.veiled m b ev) = some o' ∧ OutcomeVeiled n R b ev o o' := by
  induction body generalizing s m results with
  | finish =>
    cases ho
    exact ⟨_, rfl, m, h, rfl⟩
  | hang => cases ho
  | unknown =>
    cases ho
    refine ⟨_, rfl, ?_⟩
    rw [capView_veiled hR h]
    exact runActions_veiled hR (s := s.countDraw) h _
  | call c next ih =>
    have hground := groundCall_veiled s m b ev results c
    rcases capAction_veiled hR h (groundCall s results c) with ⟨f, hs, hv⟩ | ⟨t, m', hs, hv, ht⟩
    · cases (runBody_call_of_error hs).symm.trans ho
      exact ⟨_, runBody_call_of_error (by rw [hground, hv]), m, h, rfl⟩
    · rw [runBody_call_of_ok hs] at ho
      rw [runBody_call_of_ok (by rw [hground, hv]), hground, capAnswers_veiled hR h]
      exact ih _ ht ho
  | branch c yes no ihyes ihno =>
    rw [runBody_branch] at ho ⊢
    rw [evalCapExpr_veiled]
    by_cases hc : evalCapExpr s results c = 0
    · rw [if_pos hc] at ho ⊢
      exact ihno results h ho
    · rw [if_neg hc] at ho ⊢
      exact ihyes results h ho
  | choose x y ihx ihy =>
    rw [runBody_choose] at ho ⊢
    rw [State.veiled_draws]
    by_cases hc : Config.freeChoice s.draws = true
    · rw [if_pos hc] at ho ⊢
      exact ihx results (s := s.countDraw) h ho
    · rw [if_neg hc] at ho ⊢
      exact ihy results (s := s.countDraw) h ho
  | input next ih => exact ih (Config.freeInput s.draws :: results) (s := s.countDraw) h ho

/-- A capability that goes on the veiled state as on the state itself. -/
def Blind (n : Nat) (R : Memory 8 → Memory 8 → Prop) (b : Bool) (ev : List TraceEvent)
    (cap : State → CapOutcome) : Prop :=
  ∀ s m, Twin n R s m → OutcomeVeiled n R b ev (cap s) (cap (s.veiled m b ev))

theorem capExit_blind : Blind n R b ev capExit := fun _ m h => ⟨m, h, rfl⟩

/-- A jump's condition is a flag, or none. -/
theorem capJumpIf_blind {c : State → Bool} (hc : ∀ s m, c (s.veiled m b ev) = c s) :
    Blind n R b ev (capJumpIf c) := by
  intro s m h
  rw [capJumpIf, capJumpIf, hc]
  cases c s with
  | true => exact ⟨m, h, rfl⟩
  | false => exact ⟨m, h, rfl⟩

theorem capCompare_blind (hR : ImageTwins n R) : Blind n R b ev capCompare := by
  intro s m h
  by_cases hin : s.addr0.toNat + 2 ≤ s.len ∧ s.addr1.toNat + 2 ≤ s.len
  · obtain ⟨hleft, hright⟩ := hin
    rw [capCompare_of_le hleft hright, capCompare_of_le (s := s.veiled m b ev) hleft hright,
      State.veiled_addr0, State.veiled_addr1, cellAt_veiled hR h hleft, cellAt_veiled hR h hright]
    exact ⟨m, h, rfl⟩
  · have hout : s.len < s.addr0.toNat + 2 ∨ s.len < s.addr1.toNat + 2 := by omega
    rw [capCompare_of_out hout, capCompare_of_out (s := s.veiled m b ev) hout]
    exact ⟨m, h, rfl⟩

theorem capPush_blind (hR : ImageTwins n R) : Blind n R b ev capPush := by
  intro s m h
  rcases Nat.lt_or_ge s.len (s.addr0.toNat + 2) with hout | hin
  · rw [capPush_of_cell_out hout, capPush_of_cell_out (s := s.veiled m b ev) hout]
    exact ⟨m, h, rfl⟩
  · rcases Nat.lt_or_ge s.vsp s.cfg.vstackCap with hroom | hfull
    · rw [capPush_of_room hin hroom, capPush_of_room (s := s.veiled m b ev) hin hroom,
        State.veiled_addr0, cellAt_veiled hR h hin]
      exact ⟨m, h, rfl⟩
    · rw [capPush_of_full hin hfull, capPush_of_full (s := s.veiled m b ev) hin hfull]
      exact ⟨m, h, rfl⟩

theorem capPop_blind (hR : ImageTwins n R) : Blind n R b ev capPop := by
  intro s m h
  rcases Nat.lt_or_ge s.len (s.addr0.toNat + 2) with hout | hin
  · rw [capPop_of_cell_out hout, capPop_of_cell_out (s := s.veiled m b ev) hout]
    exact ⟨m, h, rfl⟩
  · rcases Nat.eq_zero_or_pos s.vsp with hempty | hpos
    · rw [capPop_of_empty hin hempty, capPop_of_empty (s := s.veiled m b ev) hin hempty]
      exact ⟨m, h, rfl⟩
    · rw [capPop_of_pos hin hpos, capPop_of_pos (s := s.veiled m b ev) hin hpos]
      exact ⟨_, h.imageWithCell hR _ _, rfl⟩

theorem capCall_blind : Blind n R b ev capCall := by
  intro s m h
  rcases Nat.lt_or_ge s.csp s.cfg.cstackCap with hroom | hfull
  · rw [capCall_of_room hroom, capCall_of_room (s := s.veiled m b ev) hroom]
    exact ⟨m, h, rfl⟩
  · rw [capCall_of_full hfull, capCall_of_full (s := s.veiled m b ev) hfull]
    exact ⟨m, h, rfl⟩

theorem capReturn_blind : Blind n R b ev capReturn := by
  intro s m h
  rcases Nat.eq_zero_or_pos s.csp with hempty | hpos
  · rw [capReturn_of_empty hempty, capReturn_of_empty (s := s.veiled m b ev) hempty]
    exact ⟨m, h, rfl⟩
  · rw [capReturn_of_pos hpos, capReturn_of_pos (s := s.veiled m b ev) hpos]
    exact ⟨m, h, rfl⟩

/-! ### The cycle -/

theorem endCheck_veiled (s : State) (m : Memory 8) (b : Bool) (ev : List TraceEvent) :
    endCheck (s.veiled m b ev) = (endCheck s).veiled m b ev := by
  cases hrun : s.running with
  | false =>
    rw [endCheck_of_not_running hrun, endCheck_of_not_running (s := s.veiled m b ev) hrun]
    rfl
  | true =>
    rcases Nat.lt_or_ge s.ip.toNat s.len with hin | hend
    · rw [endCheck_of_lt_len hrun hin, endCheck_of_lt_len (s := s.veiled m b ev) hrun hin]
    · rw [endCheck_of_len_le hrun hend, endCheck_of_len_le (s := s.veiled m b ev) hrun hend]
      rfl

/-- Step 7 of the veiled state differs in the trace port again, and without an observer not even there. -/
theorem emitTrace_veiled (s : State) (m : Memory 8) (b : Bool) (ev : List TraceEvent) :
    ∃ ev', (b = false → ev' = ev) ∧
      emitTrace (s.veiled m b ev) = (emitTrace s).veiled m b ev' := by
  have hport : (emitTrace s).veiled m b = s.veiled m b := by
    unfold emitTrace
    split <;> rfl
  rw [hport]
  cases b with
  | false => exact ⟨ev, fun _ => rfl, rfl⟩
  | true => exact ⟨_, Bool.noConfusion, rfl⟩

/-- `x` is the next state `t`, veiled again. -/
def NextVeiled (n : Nat) (R : Memory 8 → Memory 8 → Prop) (b : Bool) (ev : List TraceEvent)
    (t : State) (x : Host.Outcome State Fault Refusal) : Prop :=
  ∃ m' ev', Twin n R t m' ∧ (b = false → ev' = ev) ∧ x = .next (t.veiled m' b ev')

theorem finishCycle_veiled {o o' : CapOutcome} (h : OutcomeVeiled n R b ev o o') (ip0 : Word) :
    NextVeiled n R b ev (finishCycle ip0 o) (.next (finishCycle ip0 o')) := by
  obtain ⟨m', ⟨hlen, hm⟩, rfl⟩ := h
  cases o with
  | raised k u => exact ⟨m', ev, ⟨hlen, hm⟩, fun _ => rfl, rfl⟩
  | returned u =>
    obtain ⟨ev', hev', hemit⟩ := emitTrace_veiled u m' b ev
    refine ⟨m', ev', ?_, hev', ?_⟩
    · simpa [Twin, finishCycle, CapOutcome.state] using And.intro hlen hm
    · rw [CapOutcome.veiled, finishCycle, hemit, endCheck_veiled, finishCycle]

theorem runCycle_veiled {cap : State → CapOutcome} (hcap : Blind n R b ev cap)
    (h : Twin n R s m) (idx : BitVec 7) (inl : Bool) (ops : Operands) :
    NextVeiled n R b ev (runCycle idx inl ops cap s)
      (.next (runCycle idx inl ops cap (s.veiled m b ev))) :=
  finishCycle_veiled (hcap (s.decoded idx inl ops) m h) s.ip

theorem exec_veiled (hR : ImageTwins n R) (h : Twin n R s m) {i : Instr} {t : State}
    (ht : exec i s = .next t) : NextVeiled n R b ev t (exec i (s.veiled m b ev)) := by
  cases i with
  | exit idx inl v =>
    cases ht
    exact runCycle_veiled capExit_blind h _ _ _
  | goto idx inl v | gotoEquals idx inl v | gotoNotEquals idx inl v | gotoGreater idx inl v
  | gotoLess idx inl v =>
    cases ht
    exact runCycle_veiled (capJumpIf_blind fun _ _ => rfl) h _ _ _
  | compare idx inl s0 s1 =>
    cases ht
    exact runCycle_veiled (capCompare_blind hR) h _ _ _
  | push idx inl s0 =>
    cases ht
    exact runCycle_veiled (capPush_blind hR) h _ _ _
  | pop idx inl s0 =>
    cases ht
    exact runCycle_veiled (capPop_blind hR) h _ _ _
  | call idx inl v =>
    cases ht
    exact runCycle_veiled capCall_blind h _ _ _
  | ret idx inl =>
    cases ht
    exact runCycle_veiled capReturn_blind h _ _ _
  | illegal idx inl =>
    cases ht
    exact ⟨m, ev, h, fun _ => rfl, rfl⟩
  | ext idx inl ops =>
    cases ho : capHost idx (s.decoded idx inl ops) with
    | none => cases (execExt_of_none ho).symm.trans ht
    | some o =>
      cases (execExt_of_some ho).symm.trans ht
      obtain ⟨o', ho', hveiled⟩ :=
        runBody_veiled (b := b) (ev := ev) hR idx _ [] (s := s.decoded idx inl ops) h ho
      have hexec : exec (.ext idx inl ops) (s.veiled m b ev) = .next (finishCycle s.ip o') :=
        execExt_of_some ho'
      rw [hexec]
      exact finishCycle_veiled hveiled s.ip

/-! ### The step -/

theorem fetchBytes_veiled (hR : ImageTwins n R) (h : Twin n R s m) (a k : Nat) :
    (s.veiled m b ev).fetchBytes a k = s.fetchBytes a k := by
  obtain ⟨hlen, hm⟩ := h
  rw [State.fetchBytes_eq_map, State.fetchBytes_eq_map]
  refine List.map_congr_left fun i hi => hR.read hm _ ?_
  have hi : i < min k (s.len - a) := List.mem_range.1 hi
  omega

/-- In phase RUNNING a step answers a next state only where the loop's guard holds. -/
theorem cycleReady_of_step {t : State} (hphase : s.phase = .running) (h : step s = .next t) :
    s.CycleReady := by
  by_contra hready
  have hguard : ¬ (s.running && decide (s.ip.toNat < s.len)) = true := by
    simpa [hphase] using hready
  simp only [step, hphase, fetch, if_neg hguard] at h
  cases h

theorem step_veiled (hR : ImageTwins n R) (h : Twin n R s m) {t : State}
    (hphase : s.phase = .running) (ht : step s = .next t) :
    NextVeiled n R b ev t (step (s.veiled m b ev)) := by
  have hready := cycleReady_of_step hphase ht
  have hbytes := fetchBytes_veiled (b := b) (ev := ev) hR h s.ip.toNat 4
  rcases fetch_ready hready with ⟨i, rest, hdec, _⟩ | ⟨hdec, _⟩
  · rw [step_of_decode_ok hready hdec] at ht
    rw [← hbytes] at hdec
    rw [step_of_decode_ok (s := s.veiled m b ev) hready hdec]
    exact exec_veiled hR h ht
  · cases (step_of_decode_truncated hready hdec).symm.trans ht
    rw [← hbytes] at hdec
    rw [step_of_decode_truncated (s := s.veiled m b ev) hready hdec]
    exact ⟨m, ev, h, fun _ => rfl, rfl⟩

end

/-! ### The obligations -/

theorem setMem_eq_veiled {s : State} (htrace : s.cfg.traceEn = false) (m : Memory 8) :
    s.setMem m = s.veiled m false s.tracePort := by
  rw [← htrace]
  rfl

/-- Settles O48: the simulation for agreement below `len`, with no observer on either side. -/
theorem bytesPastLenAreNotObserved : Obligations.BytesPastLenAreNotObserved := by
  intro s t m hphase htrace hm ht
  have hready := cycleReady_of_step hphase ht
  obtain ⟨m', ev', ⟨_, hm'⟩, hev', hstep⟩ :=
    step_veiled (b := false) (ev := s.tracePort) (imageTwins_agreeBelow s.len) ⟨rfl, hm⟩ hphase ht
  obtain ⟨hcfg, _⟩ := (step_cycleResult hready ht).hostSide
  have hport : t.tracePort = s.tracePort := by
    simpa [htrace] using traceOncePerExecutedInstruction s t hready ht
  refine ⟨m', ?_, hm'⟩
  rw [setMem_eq_veiled htrace, setMem_eq_veiled (s := t) (by rw [hcfg, htrace]), hstep, hev' rfl,
    hport]

/-- Settles O49: the simulation for equality of images. -/
theorem traceIsOnlyObserved : Obligations.TraceIsOnlyObserved := by
  intro s t b ev hphase ht
  obtain ⟨m', ev', ⟨_, rfl⟩, _, hstep⟩ :=
    step_veiled (b := b) (ev := ev) (imageTwins_eq s.len) ⟨rfl, rfl⟩ hphase ht
  exact ⟨ev', hstep⟩

end Sys2Proof.Machine
